-- ==== Sys2Proof/Word.lean ====
section
/-! DEFINITION. The widths of `spec/00_scope.md` R10 as types. -/

namespace Sys2Proof

/-- One byte of a buffer, one 8-bit channel, one 8-bit luma value (R10). -/
abbrev Byte := BitVec 8

/-- The bus data width `DATA_W` and the width of every register (R10, R26). -/
abbrev Word := BitVec 32

/-- The four byte strobes of a write (R10). -/
abbrev Strobe := BitVec 4

/-- A bus byte address, an offset within the aperture: `ADDR_W` bits (R10, R60). -/
abbrev Addr := BitVec 26

/-- The transaction key TK: the write flag above the address (`spec/30_encoding.md` R83). -/
abbrev Key := BitVec 27

/-- The container of one output sample (R10, `spec/30_encoding.md` R85). -/
abbrev Sample := BitVec 16

end Sys2Proof
end

