-- ==== Sys2Proof/Config.lean ====
section
/-! DEFINITION. What an implementation fixes and what the spec leaves free: constants without a body,
so that a claim holds whatever they are. -/

namespace Sys2Proof

/-- The open parameter P_MAX (`spec/00_scope.md` R8), as the number `k` with `P_MAX = 4 * (k + 1)`:
every `k` below 1398101 gives a legal P_MAX and every legal P_MAX is given. Log entry 1. -/
opaque Config.quads : Fin 1398101

/-- The open parameter BLOCK_BASE (R11). Nothing in the block depends on it. -/
opaque Config.blockBase : Nat

/-- Where the platform's address map shows an offset of the aperture (R11, `spec/20_memory.md` R60). -/
def Config.systemAddress (addr : Addr) : Nat := Config.blockBase + addr.toNat

/-- The free draw of one IBUF byte at one reset: reset number, then byte offset
(`spec/10_state.md` R53, `spec/70_reset_and_hazards.md` R181, U6). Log entry 2. -/
opaque Config.ibufDraw : Nat → Nat → Byte

/-- The free draw of one OBUF byte at one reset (R54, R181, U7). Log entry 2. -/
opaque Config.obufDraw : Nat → Nat → Byte

/-- Whether an ABORT leaves the new byte (true) or the old one: number of the choice, then byte
offset, so independently per byte (`spec/42_frame.md` R123, U9). Log entry 3. -/
opaque Config.abortTakesNew : Nat → Nat → Bool

/-- Whether a transaction issued while `rst_n = 0` is answered OKAY
(`spec/70_reset_and_hazards.md` R178, U11). Log entry 3. -/
opaque Config.okayInReset : Nat → Bool

/-- The read data of a read issued while `rst_n = 0` (R178, U11). Log entry 3. -/
opaque Config.dataInReset : Nat → Word

end Sys2Proof
end

