-- ==== Sys2Proof/Syntax.lean ====
section
/-! DEFINITION. The registers, commands and operations of the block, and the coded forms they are
read from. -/

namespace Sys2Proof

/-- The 23 registers of `spec/10_state.md` section 3. -/
inductive Reg where
  | id | version | ctrl | cmd | status | srcFmt | width | height | srcLen
  | inSeq | inStampSec | inStampNsec
  | outFmt | outWidth | outHeight | outStep | outLen | outSeq | outStampSec | outStampNsec
  | frameCount | errCount | capacity
deriving DecidableEq, Repr

/-- The four commands of `spec/30_encoding.md` R87. -/
inductive Command where
  | nop | start | clear | abort
deriving DecidableEq, Repr

/-- The six bus operations of `spec/30_encoding.md` R83. -/
inductive BusOp where
  | regRd | regWr | ibufRd | ibufWr | obufRd | obufWr
deriving DecidableEq, Repr

/-- One bus transaction as the port receives it: the key, and the write data and strobe, which a read
does not carry and nothing reads then (R83, `spec/20_memory.md` R62). -/
structure Txn where
  key   : Key
  wdata : Word
  wstrb : Strobe
deriving DecidableEq, Repr

/-- What a decoder is given: a bus transaction, or the PIX24 value the engine reads from IBUF for the
pixel of a raster index (`spec/30_encoding.md` R83, R84). -/
inductive Code where
  | bus (t : Txn)
  | pixel (index : Nat) (pix : BitVec 24)
deriving DecidableEq, Repr

/-- One constructor for each row of `spec/opcode_table.json`. A bus operation keeps the offset within
its region, misaligned and out-of-range ones too: those raise BusError when it runs. A command is a
full-word write of its word to CMD. `cvt` is the engine's operation on the pixel of an index. -/
inductive Instr where
  /-- REG_RD, `spec/43_bus_access.md` R141. -/
  | regRd (off : BitVec 12)
  /-- REG_WR, R142. -/
  | regWr (off : BitVec 12) (wdata : Word) (wstrb : Strobe)
  /-- IBUF_RD, R143. -/
  | ibufRd (off : BitVec 24)
  /-- IBUF_WR, R144. -/
  | ibufWr (off : BitVec 24) (wdata : Word) (wstrb : Strobe)
  /-- OBUF_RD, R145. -/
  | obufRd (off : BitVec 24)
  /-- OBUF_WR, R146. -/
  | obufWr (off : BitVec 24) (wdata : Word) (wstrb : Strobe)
  /-- NOP, `spec/42_frame.md` R115. -/
  | nop
  /-- START, R116 to R121. -/
  | start
  /-- CLEAR, R122. -/
  | clear
  /-- ABORT, R123. -/
  | abort
  /-- CVT, `spec/41_rescale.md` R109: the pixel's index and its channels B, G, R. -/
  | cvt (index : Nat) (b g r : Byte)
deriving DecidableEq, Repr

end Sys2Proof
end

