-- ==== Sys2Proof/Machine/State.lean ====
section
/-! DEFINITION. The state of the block, the reasons a step can stop, and the state after reset
(`spec/10_state.md`, `spec/70_reset_and_hazards.md`). -/

namespace Sys2Proof.Machine

/-- The two buffers, each an address space of bytes (`spec/00_scope.md` R17). -/
inductive Space where
  | ibuf | obuf
deriving DecidableEq, Repr

/-- The two bus responses (`spec/20_memory.md` R62). -/
inductive Resp where
  | okay | slverr
deriving DecidableEq, Repr

/-- What the port answers to one transaction: read data comes with a read only (R62). -/
inductive Reply where
  | read (resp : Resp) (rdata : Word)
  | write (resp : Resp)
deriving DecidableEq, Repr

/-- One event of the total order of `spec/20_memory.md` R74: a host transaction, a completion, the engine's
one autonomous step (`spec/00_scope.md` R5), or an edge of the reset input. -/
inductive Event where
  /-- A host transaction reaches the port (R67). -/
  | bus (t : Txn)
  /-- The engine completes a job where one runs: it converts every pixel and emits the frame, at once
  (`spec/42_frame.md` R127). -/
  | complete
  /-- A rising clock edge with `rst_n = 0` (`spec/70_reset_and_hazards.md` R177). -/
  | assertReset
  /-- The first rising clock edge with `rst_n = 1` after it (R177). -/
  | releaseReset
deriving DecidableEq, Repr

/-- CTRL's two fields; bits 31..2 are RAZ/WI and not stored (`spec/10_state.md` R29). -/
structure Ctrl where
  irqEn    : Bool
  metaCopy : Bool
deriving DecidableEq, Repr

/-- STATUS's fields; its other bits are RAZ and not stored (R32). -/
structure Status where
  busy    : Bool
  done    : Bool
  err     : Bool
  cmdErr  : Bool
  errCode : BitVec 4
deriving DecidableEq, Repr

/-- The header registers SRC_FMT, WIDTH, HEIGHT, SRC_LEN, IN_SEQ, IN_STAMP_SEC and IN_STAMP_NSEC, each
at the width of its field (R33 to R39). -/
structure Header where
  fmt    : BitVec 8
  width  : BitVec 16
  height : BitVec 16
  len    : Word
  seq    : Word
  sec    : Word
  nsec   : Word
deriving DecidableEq, Repr

/-- The descriptor of the last emission: OUT_WIDTH, OUT_HEIGHT, OUT_STEP, OUT_LEN, OUT_SEQ,
OUT_STAMP_SEC and OUT_STAMP_NSEC, each at the width of its field (R41 to R47). -/
structure Descriptor where
  width  : BitVec 16
  height : BitVec 16
  step   : BitVec 17
  len    : Word
  seq    : Word
  sec    : Word
  nsec   : Word
deriving DecidableEq, Repr

/-- The hidden snapshot a successful START takes (R52). -/
structure Job where
  width    : BitVec 16
  height   : BitVec 16
  copyMeta : Bool
  seq      : Word
  sec      : Word
  nsec     : Word
deriving DecidableEq, Repr

/-- The bytes of a buffer written since the last reset, by rising offset: `Memory.wf`. -/
abbrev Memory := List Host.Cell

/-- The state of the block (R25), and the model's own fields that place it in its surroundings.
ID, VERSION, CMD and OUT_FMT store nothing: `State.readRegister` gives their constants. -/
structure State where
  /-- CAPACITY: P_MAX is `4 * (quads + 1)` pixels (R50, `spec/00_scope.md` R8); no step changes it. -/
  quads      : Fin 1398101
  ctrl       : Ctrl
  status     : Status
  header     : Header
  out        : Descriptor
  frameCount : Word
  errCount   : Word
  job        : Job
  /-- The written bytes of IBUF; every other byte holds its reset draw (R53). -/
  ibuf       : Memory
  /-- The written bytes of OBUF; every other byte holds its reset draw (R54). -/
  obuf       : Memory
  /-- `rst_n = 0` (`spec/70_reset_and_hazards.md` R177, R178). -/
  inReset    : Bool
  /-- The answer to the latest transaction (`spec/20_memory.md` R62). -/
  reply      : Option Reply
  /-- The model's own: the number of resets so far, which selects the reset draws (R181). -/
  epoch      : Nat
  /-- The model's own: the number of free choices taken so far (log entry 3). -/
  draws      : Nat
  /-- The model's own: the events still to come, oldest first (R74, log entry 5). -/
  events     : List Event
deriving DecidableEq, Repr

/-- Why a step can stop with a fault. No event raises one: both concern the engine-internal CVT outside
the operands `spec/41_rescale.md` R109 gives it. -/
inductive Fault where
  /-- Raised by CVT of an index that is no pixel of a running job (R109: `0 ≤ i < N`). Safe: the engine
  performs no such operation. -/
  | cvtOutsideJob
  /-- Raised by CVT of an index whose two sample bytes do not exist in OBUF (`spec/10_state.md` R54).
  Safe: `spec/42_frame.md` R118 admits no job with such a pixel. -/
  | noSuchByte
deriving DecidableEq, Repr

/-- Why a step can be refused. -/
inductive Refusal where
  /-- Raised by an arm of `exec` whose instruction has no meaning yet; safe. No arm does. -/
  | notModelled (mnemonic : String)
deriving DecidableEq, Repr

/-- The registers of `spec/70_reset_and_hazards.md` R179 at reset number `epoch`. Every buffer byte
holds its draw, so none is listed. JOB is unspecified and never read while IDLE: 0, as U8 allows
(log entry 4). -/
def State.afterReset (quads : Fin 1398101) (epoch draws : Nat) : State where
  quads := quads
  ctrl := { irqEn := false, metaCopy := true }
  status := { busy := false, done := false, err := false, cmdErr := false, errCode := 0 }
  header := { fmt := 0, width := 0, height := 0, len := 0, seq := 0, sec := 0, nsec := 0 }
  out := { width := 0, height := 0, step := 0, len := 0, seq := 0, sec := 0, nsec := 0 }
  frameCount := 0
  errCount := 0
  job := { width := 0, height := 0, copyMeta := false, seq := 0, sec := 0, nsec := 0 }
  ibuf := []
  obuf := []
  inReset := false
  reply := none
  epoch := epoch
  draws := draws
  events := []

/-- The machine right after power-on reset (R179, R180), with nothing on the port. -/
def State.reset : State := State.afterReset Config.quads 0 0

end Sys2Proof.Machine
end

