-- ==== Sys2Proof/Machine/Flags.lean ====
section
/-! DEFINITION. CTRL and STATUS as words, what sets and clears each flag, and the interrupt output
(`spec/10_state.md` R29, R32, R55, R56). -/

namespace Sys2Proof.Machine

/-- The error codes of `spec/30_encoding.md` R90. -/
inductive ErrorCode where
  | none | format | length | capacity | encode
deriving DecidableEq, Repr

/-- The value of STATUS.ERR_CODE (R90). ENCODE is never raised (`spec/60_exceptions.md` R161). -/
def errorValue : ErrorCode → BitVec 4
  | .none => 0x0
  | .format => 0x1
  | .length => 0x2
  | .capacity => 0x3
  | .encode => 0x4

/-- CTRL as a host reads it (R29). -/
def ctrlWord (c : Ctrl) : Word :=
  0#30 ++ BitVec.ofBool c.metaCopy ++ BitVec.ofBool c.irqEn

/-- What a write of CTRL stores (R29). -/
def ctrlOfWord (w : Word) : Ctrl := { irqEn := w.getLsbD 0, metaCopy := w.getLsbD 1 }

/-- STATUS as a host reads it (R32). -/
def statusWord (f : Status) : Word :=
  0#20 ++ f.errCode ++ 0#4 ++ BitVec.ofBool f.cmdErr ++ BitVec.ofBool f.err
    ++ BitVec.ofBool f.done ++ BitVec.ofBool f.busy

/-- START's first act: the previous result goes, CMD_ERR stays (`spec/42_frame.md` R117). -/
def Status.clearResult (f : Status) : Status := { f with done := false, err := false, errCode := 0 }

/-- CLEAR: every flag but BUSY goes (R122). -/
def Status.clearAll (f : Status) : Status :=
  { f with done := false, err := false, errCode := 0, cmdErr := false }

/-- A successful START (R120). -/
def Status.setBusy (f : Status) : Status := { f with busy := true }

/-- ABORT of a running job (R123). -/
def Status.clearBusy (f : Status) : Status := { f with busy := false }

/-- Completion (R127). -/
def Status.setDone (f : Status) : Status := { f with busy := false, done := true }

/-- An error report (`spec/60_exceptions.md` R160). -/
def Status.setErr (f : Status) (e : ErrorCode) : Status := { f with err := true, errCode := errorValue e }

/-- A command error (R163). -/
def Status.setCmdErr (f : Status) : Status := { f with cmdErr := true }

/-- The interrupt output, a level (`spec/10_state.md` R55, `spec/60_exceptions.md` R164). -/
def State.irq (s : State) : Bool := s.ctrl.irqEn && (s.status.done || s.status.err)

end Sys2Proof.Machine
end

