-- ==== Sys2Proof/WellFormed.lean ====
section
/-! DEFINITION. Which terms of `Instr` are the one name of an operation. -/

namespace Sys2Proof

/-- The offset of CMD (`spec/10_state.md` R31). -/
def cmdOffset : BitVec 12 := 0x00C

/-- No legal raster has more pixels than this, the largest P_MAX (`spec/00_scope.md` R8). -/
def maxPixels : Nat := 5592404

/-- A full-word write of one of the four command words to CMD is that command, not a `regWr`
(`spec/30_encoding.md` R87), and a pixel index lies in some legal raster (`spec/41_rescale.md` R109). -/
def Instr.wellFormed : Instr → Bool
  | .regWr off wdata wstrb => !(off == cmdOffset && wstrb == 0xF && decide (wdata.toNat < 4))
  | .cvt index _ _ _ => decide (index < maxPixels)
  | .regRd _ | .ibufRd _ | .ibufWr _ _ _ | .obufRd _ | .obufWr _ _ _
  | .nop | .start | .clear | .abort => true

end Sys2Proof
end

