-- ==== Sys2Proof/Decode.lean ====
section
/-! DEFINITION. Decoding of transaction keys, command words and pixels, total, refusing by name; and
the encoder (`spec/30_encoding.md` R82 to R95). -/

namespace Sys2Proof

/-! ## Register offsets (`spec/10_state.md` section 3) -/

/-- A register's offset in the register region. -/
def Reg.offset : Reg → BitVec 12
  | .id => 0x000 | .version => 0x004 | .ctrl => 0x008 | .cmd => 0x00C | .status => 0x010
  | .srcFmt => 0x014 | .width => 0x018 | .height => 0x01C | .srcLen => 0x020
  | .inSeq => 0x024 | .inStampSec => 0x028 | .inStampNsec => 0x02C
  | .outFmt => 0x030 | .outWidth => 0x034 | .outHeight => 0x038 | .outStep => 0x03C
  | .outLen => 0x040 | .outSeq => 0x044 | .outStampSec => 0x048 | .outStampNsec => 0x04C
  | .frameCount => 0x050 | .errCount => 0x054 | .capacity => 0x058

/-- The register at a word index, `TK[11:2]` of R83. -/
def Reg.ofIndex : Nat → Option Reg
  | 0 => some .id | 1 => some .version | 2 => some .ctrl | 3 => some .cmd | 4 => some .status
  | 5 => some .srcFmt | 6 => some .width | 7 => some .height | 8 => some .srcLen
  | 9 => some .inSeq | 10 => some .inStampSec | 11 => some .inStampNsec
  | 12 => some .outFmt | 13 => some .outWidth | 14 => some .outHeight | 15 => some .outStep
  | 16 => some .outLen | 17 => some .outSeq | 18 => some .outStampSec | 19 => some .outStampNsec
  | 20 => some .frameCount | 21 => some .errCount | 22 => some .capacity
  | _ => none

/-- The register a word offset of the register region names; none where the offset is misaligned
(`spec/20_memory.md` R64) or unmapped (`spec/10_state.md` R51). -/
def Reg.ofOffset (off : BitVec 12) : Option Reg :=
  if off.toNat % 4 = 0 then Reg.ofIndex (off.toNat / 4) else none

/-! ## Command words (R87) -/

/-- A command's word. -/
def Command.word : Command → Word
  | .nop => 0x00000000
  | .start => 0x00000001
  | .clear => 0x00000002
  | .abort => 0x00000003

/-- The whole 32-bit word is matched: any other word is illegal (R87, R124). -/
def Command.ofWord (w : Word) : Option Command :=
  if w = 0x00000000 then some .nop
  else if w = 0x00000001 then some .start
  else if w = 0x00000002 then some .clear
  else if w = 0x00000003 then some .abort
  else none

/-- A command as an operation of the table. -/
def Command.instr : Command → Instr
  | .nop => .nop
  | .start => .start
  | .clear => .clear
  | .abort => .abort

/-! ## Transaction keys (R83) -/

/-- A row of R83's table: the keys `k` with `k &&& mask = pattern`. -/
structure KeyRow where
  op      : BusOp
  pattern : Key
  mask    : Key
deriving DecidableEq, Repr

/-- R83's table, row for row. -/
def keyRows : List KeyRow :=
  [⟨.regRd, 0x0000000, 0x7FFF000⟩, ⟨.regWr, 0x4000000, 0x7FFF000⟩,
   ⟨.ibufRd, 0x1000000, 0x7000000⟩, ⟨.ibufWr, 0x5000000, 0x7000000⟩,
   ⟨.obufRd, 0x2000000, 0x7000000⟩, ⟨.obufWr, 0x6000000, 0x7000000⟩]

/-- `TK[26]`: 1 for BusWrite, 0 for BusRead. -/
def Txn.isWrite (t : Txn) : Bool := t.key.getLsbD 26

/-- `TK[25:24]`, which selects the region (`spec/20_memory.md` R61). -/
def Txn.region (t : Txn) : BitVec 2 := t.key.extractLsb' 24 2

/-- `TK[23:12]`, which is 0 in the register region. -/
def Txn.page (t : Txn) : BitVec 12 := t.key.extractLsb' 12 12

/-- `TK[11:0]`, the offset in the register region. -/
def Txn.regOffset (t : Txn) : BitVec 12 := t.key.extractLsb' 0 12

/-- `TK[23:0]`, the offset in a buffer window. -/
def Txn.bufOffset (t : Txn) : BitVec 24 := t.key.extractLsb' 0 24

/-- Why no operation is decoded. -/
inductive Reject where
  /-- A key of region 00 outside the register page: `TK[23:12] ≠ 0` (R83's last row). -/
  | unmappedPage
  /-- A key of region 11 (R83's last row). -/
  | unmappedRegion
  /-- A pixel index that lies in no legal raster (`spec/41_rescale.md` R109). -/
  | pixelOutsideRaster
deriving DecidableEq, Repr

/-- A decoder's answer. -/
inductive Decoded where
  | ok (i : Instr)
  | reject (why : Reject)
deriving DecidableEq, Repr

/-- A write to the register region: a full-word write of a command word to CMD is that command
(R87); every other write is REG_WR, of an illegal word to CMD too. -/
def decodeRegWrite (off : BitVec 12) (wdata : Word) (wstrb : Strobe) : Instr :=
  if off = cmdOffset ∧ wstrb = 0xF then
    match Command.ofWord wdata with
    | some c => c.instr
    | none => .regWr off wdata wstrb
  else .regWr off wdata wstrb

/-- The operation a transaction selects by its key (R83). -/
def decodeTxn (t : Txn) : Decoded :=
  if t.region = 0 then
    if t.page = 0 then
      if t.isWrite then .ok (decodeRegWrite t.regOffset t.wdata t.wstrb)
      else .ok (.regRd t.regOffset)
    else .reject .unmappedPage
  else if t.region = 1 then
    if t.isWrite then .ok (.ibufWr t.bufOffset t.wdata t.wstrb) else .ok (.ibufRd t.bufOffset)
  else if t.region = 2 then
    if t.isWrite then .ok (.obufWr t.bufOffset t.wdata t.wstrb) else .ok (.obufRd t.bufOffset)
  else .reject .unmappedRegion

/-! ## Pixels (R84) -/

/-- `PIX24[7:0]`, the blue channel. -/
def pixB (p : BitVec 24) : Byte := p.extractLsb' 0 8

/-- `PIX24[15:8]`, the green channel. -/
def pixG (p : BitVec 24) : Byte := p.extractLsb' 8 8

/-- `PIX24[23:16]`, the red channel. -/
def pixR (p : BitVec 24) : Byte := p.extractLsb' 16 8

/-- The 24-bit little-endian value of a pixel's three bytes, R above G above B. -/
def pix24 (b g r : Byte) : BitVec 24 := r ++ g ++ b

/-! ## The decoder and the encoder -/

/-- The operation a coded form stands for. -/
def decode : Code → Decoded
  | .bus t => decodeTxn t
  | .pixel index p =>
    if index < maxPixels then .ok (.cvt index (pixB p) (pixG p) (pixR p))
    else .reject .pixelOutsideRaster

/-- The key of a register access: bits 26..12 of R83's row above the offset. -/
def regKey (write : Bool) (off : BitVec 12) : Key :=
  (if write then 0x4000#15 else 0x0000#15) ++ off

/-- The key of a buffer access: bits 26..24 of R83's row above the offset. -/
def bufKey (row : BitVec 3) (off : BitVec 24) : Key := row ++ off

/-- The write of a command word to CMD (`spec/10_state.md` R31). -/
def commandTxn (w : Word) : Txn := ⟨regKey true cmdOffset, w, 0xF⟩

/-- The coded form of an operation; a read carries no data and no strobe (R95), zeros here. -/
def encode : Instr → Code
  | .regRd off => .bus ⟨regKey false off, 0, 0⟩
  | .regWr off wdata wstrb => .bus ⟨regKey true off, wdata, wstrb⟩
  | .ibufRd off => .bus ⟨bufKey 0b001 off, 0, 0⟩
  | .ibufWr off wdata wstrb => .bus ⟨bufKey 0b101 off, wdata, wstrb⟩
  | .obufRd off => .bus ⟨bufKey 0b010 off, 0, 0⟩
  | .obufWr off wdata wstrb => .bus ⟨bufKey 0b110 off, wdata, wstrb⟩
  | .nop => .bus (commandTxn Command.nop.word)
  | .start => .bus (commandTxn Command.start.word)
  | .clear => .bus (commandTxn Command.clear.word)
  | .abort => .bus (commandTxn Command.abort.word)
  | .cvt index b g r => .pixel index (pix24 b g r)

/-- The bus operation that carries an instruction to the block: a command is a REG_WR of CMD; CVT has
none (R83, R87, `spec/41_rescale.md` R109). -/
def Instr.busOp : Instr → Option BusOp
  | .regRd _ => some .regRd
  | .regWr _ _ _ | .nop | .start | .clear | .abort => some .regWr
  | .ibufRd _ => some .ibufRd
  | .ibufWr _ _ _ => some .ibufWr
  | .obufRd _ => some .obufRd
  | .obufWr _ _ _ => some .obufWr
  | .cvt _ _ _ _ => none

/-! ## The table's words -/

/-- The coded form of a word of `spec/opcode_table.json`, by the row's length. A 24-bit word is a
PIX24 at index 0. A 32-bit word below 4 is a command word, and so is one that is no 27-bit key: it is
written to CMD. Every other word is a key, with zero data and strobe. The table gives two formats 32
bits in whole bytes (TK has 27), and 0 to 3 match rows of both: the row that fixes all 32 bits is
taken. Log entry 7. -/
def tableCode (nbits w : Nat) : Code :=
  if nbits = 24 then .pixel 0 (BitVec.ofNat 24 w)
  else if nbits = 32 ∧ (w < 4 ∨ 2 ^ 27 ≤ w) then .bus (commandTxn (BitVec.ofNat 32 w))
  else .bus ⟨BitVec.ofNat 27 w, 0, 0⟩

/-- The instruction the decoder reads from a word of `spec/opcode_table.json`. -/
def decodeTableWord (nbits w : Nat) : Option Instr :=
  match decode (tableCode nbits w) with
  | .ok i => some i
  | .reject _ => none

end Sys2Proof
end

