-- ==== Sys2Proof/Machine/Operands.lean ====
section
/-! DEFINITION. The arithmetic of one pixel (`spec/40_luma.md`, `spec/41_rescale.md`) and the byte
lanes of a bus word (`spec/20_memory.md` R63). -/

namespace Sys2Proof.Machine

/-! ## LUMA8 (`spec/40_luma.md`) -/

/-- The weighted sum, a thousand times the exact luma (R97, R98). -/
def lumaSum (b g r : Byte) : Nat := 114 * b.toNat + 587 * g.toNat + 299 * r.toNat

/-- LUMA8: the exact luma rounded half up (R97). -/
def luma8 (b g r : Byte) : Byte := BitVec.ofNat 8 ((lumaSum b g r + 500) / 1000)

/-- The 14-bit fixed-point form of R102, informative: it is not LUMA8. -/
def lumaQ14 (b g r : Byte) : Byte :=
  BitVec.ofNat 8 ((1868 * b.toNat + 9617 * g.toNat + 4899 * r.toNat + 8192) / 2 ^ 14)

/-- The 15-bit fixed-point form of R102, informative: it is not LUMA8. -/
def lumaQ15 (b g r : Byte) : Byte :=
  BitVec.ofNat 8 ((3735 * b.toNat + 19235 * g.toNat + 9798 * r.toNat + 16384) / 2 ^ 15)

/-! ## RESCALE12 (`spec/41_rescale.md`) -/

/-- The clamp to the 12-bit range; its lower bound 0 holds of every unsigned value (R107). -/
def clamp12 (v : Sample) : Sample := if v ≤ 4095 then v else 4095

/-- RESCALE12: widen to 16 bits, scale by 16, clamp (R105). -/
def rescale12 (y : Byte) : Sample := clamp12 (y.setWidth 16 <<< 4)

/-- The sample CVT computes under a luma function (R111). -/
def sampleWith (luma : Byte → Byte → Byte → Byte) (b g r : Byte) : Sample := rescale12 (luma b g r)

/-- The sample CVT computes: the luma function is the normative LUMA8 (R109, `spec/40_luma.md` R103,
log entry 8). -/
def sampleOf (b g r : Byte) : Sample := sampleWith luma8 b g r

/-- The lower or upper byte of a sample, the lower at the even offset (`spec/30_encoding.md` R85). -/
def sampleByte (y : Sample) (upper : Bool) : Byte :=
  if upper then y.extractLsb' 8 8 else y.extractLsb' 0 8

/-! ## Byte lanes (`spec/20_memory.md` R63) -/

/-- Lane `j` of a bus word, `wdata[8j+7 : 8j]`. -/
def laneByte (w : Word) (j : Nat) : Byte := w.extractLsb' (8 * j) 8

/-- The bus word of four bytes, the first at the lowest offset. -/
def wordOf (b0 b1 b2 b3 : Byte) : Word := b3 ++ b2 ++ b1 ++ b0

end Sys2Proof.Machine
end

