-- ==== Sys2Proof/Machine/Ops.lean ====
section
/-! DEFINITION. The named operations over buffers and registers, and the three abnormal outcomes
(`spec/60_exceptions.md` R149), which are this block's exceptions: nothing traps, and nothing returns
from one but CLEAR or the next START (R158, R167). -/

namespace Sys2Proof.Machine

/-! ## A buffer as a list -/

/-- The byte written at an offset since the last reset; `none` is what an unlisted offset reads as. -/
def Memory.get : Memory → Nat → Option Byte
  | [], _ => none
  | (k, v) :: m, a => if k = a then some v else Memory.get m a

/-- A byte written at an offset, at its place in the rising order. -/
def Memory.set : Memory → Nat → Byte → Memory
  | [], a, v => [(a, v)]
  | (k, w) :: m, a, v =>
    if a < k then (a, v) :: (k, w) :: m
    else if a = k then (a, v) :: m
    else (k, w) :: Memory.set m a v

/-- Every listed offset is above `lo`, and they rise. -/
def Memory.risingFrom : Nat → Memory → Bool
  | _, [] => true
  | lo, (k, _) :: m => decide (lo ≤ k) && Memory.risingFrom (k + 1) m

/-- The canonical form: offsets strictly rising. An entry is a written byte and an unlisted offset
reads as `none`, so no entry equals what an unlisted offset reads as. -/
def Memory.wf (m : Memory) : Bool := Memory.risingFrom 0 m

/-- Every listed offset lies below a size. -/
def Memory.within (size : Nat) (m : Memory) : Bool := m.all (fun c => decide (c.1 < size))

/-! ## The two buffers (`spec/00_scope.md` R8, R9, R17) -/

/-- P_MAX, the largest number of pixels of a frame (R8). -/
def State.pMax (s : State) : Nat := 4 * (s.quads.val + 1)

/-- A buffer's size in bytes (R9). -/
def State.bufSize (s : State) : Space → Nat
  | .ibuf => 3 * s.pMax
  | .obuf => 2 * s.pMax

/-- The byte at an offset of a buffer: the written one, else its reset draw (`spec/10_state.md` R53,
R54, log entry 2). -/
def State.readByte (s : State) : Space → Nat → Byte
  | .ibuf, off => (s.ibuf.get off).getD (Config.ibufDraw s.epoch off)
  | .obuf, off => (s.obuf.get off).getD (Config.obufDraw s.epoch off)

/-- A byte stored at an offset of a buffer. -/
def State.writeByte (s : State) (sp : Space) (off : Nat) (v : Byte) : State :=
  match sp with
  | .ibuf => { s with ibuf := s.ibuf.set off v }
  | .obuf => { s with obuf := s.obuf.set off v }

/-- The word of four bytes at an offset, little-endian (R17, `spec/20_memory.md` R63). -/
def State.readWord (s : State) (sp : Space) (off : Nat) : Word :=
  wordOf (s.readByte sp off) (s.readByte sp (off + 1)) (s.readByte sp (off + 2)) (s.readByte sp (off + 3))

/-- Lane `j` of a word write: stored only where its strobe is 1 (`spec/20_memory.md` R65). -/
def State.writeLane (s : State) (sp : Space) (off : Nat) (wdata : Word) (wstrb : Strobe) (j : Nat) : State :=
  if wstrb.getLsbD j then s.writeByte sp (off + j) (laneByte wdata j) else s

/-- A word write under its strobe (R65, R70, R71). -/
def State.writeWord (s : State) (sp : Space) (off : Nat) (wdata : Word) (wstrb : Strobe) : State :=
  (((s.writeLane sp off wdata wstrb 0).writeLane sp off wdata wstrb 1).writeLane sp off wdata wstrb 2).writeLane
    sp off wdata wstrb 3

/-- A word at an offset lies in a buffer: aligned, and wholly inside (R64, R70, R71). -/
def State.wordInside (s : State) (sp : Space) (off : BitVec 24) : Bool :=
  decide (off.toNat % 4 = 0) && decide (off.toNat + 4 ≤ s.bufSize sp)

/-! ## Answers of the port (`spec/20_memory.md` R62) -/

/-- The port answers. -/
def State.answer (s : State) (r : Reply) : State := { s with reply := some r }

/-- A read completes OKAY with its data. -/
def State.readOkay (s : State) (v : Word) : State := s.answer (.read .okay v)

/-- A write completes OKAY. -/
def State.writeOkay (s : State) : State := s.answer (.write .okay)

/-! ## The three abnormal outcomes (`spec/60_exceptions.md` R149) -/

/-- BusError: SLVERR, and read data 0 for a read; nothing else changes (`spec/20_memory.md` R66). -/
def State.raiseBusError (s : State) (isWrite : Bool) : State :=
  s.answer (if isWrite then .write .slverr else .read .slverr 0)

/-- DecodeError: the error report (`spec/60_exceptions.md` R160). -/
def State.raiseDecodeError (s : State) (e : ErrorCode) : State :=
  { s with status := s.status.setErr e, errCount := s.errCount + 1 }

/-- CmdError: the sticky flag (R163). -/
def State.raiseCmdError (s : State) : State := { s with status := s.status.setCmdErr }

/-! ## Registers (`spec/10_state.md` section 3) -/

/-- What a read of a register returns: its fields in their bits, zero in reserved bits (R26 to R50). -/
def State.readRegister (s : State) : Reg → Word
  | .id => 0x4C554D41
  | .version => 0x00010000
  | .ctrl => ctrlWord s.ctrl
  | .cmd => 0
  | .status => statusWord s.status
  | .srcFmt => s.header.fmt.setWidth 32
  | .width => s.header.width.setWidth 32
  | .height => s.header.height.setWidth 32
  | .srcLen => s.header.len
  | .inSeq => s.header.seq
  | .inStampSec => s.header.sec
  | .inStampNsec => s.header.nsec
  | .outFmt => 0x00000010
  | .outWidth => s.out.width.setWidth 32
  | .outHeight => s.out.height.setWidth 32
  | .outStep => s.out.step.setWidth 32
  | .outLen => s.out.len
  | .outSeq => s.out.seq
  | .outStampSec => s.out.sec
  | .outStampNsec => s.out.nsec
  | .frameCount => s.frameCount
  | .errCount => s.errCount
  | .capacity => BitVec.ofNat 32 s.pMax

/-! ## The pixels of a job (`spec/30_encoding.md` R84, `spec/41_rescale.md` R109) -/

/-- The number of pixels of a job, exact. -/
def Job.pixels (j : Job) : Nat := j.width.toNat * j.height.toNat

/-- What the engine reads for a pixel: `MemRead(IBUF, 3i, 3)` (R84). -/
def State.fetchPixel (s : State) (i : Nat) : Code :=
  .pixel i (pix24 (s.readByte .ibuf (3 * i)) (s.readByte .ibuf (3 * i + 1)) (s.readByte .ibuf (3 * i + 2)))

/-- The sample CVT computes for a pixel from the bytes in IBUF (R109). -/
def State.pixelSample (s : State) (i : Nat) : Sample :=
  sampleOf (s.readByte .ibuf (3 * i)) (s.readByte .ibuf (3 * i + 1)) (s.readByte .ibuf (3 * i + 2))

/-- The byte CVT writes at an offset of OBUF: offset `2i` takes the lower byte of sample `i`, offset
`2i+1` the upper one (`spec/30_encoding.md` R85). -/
def State.jobByte (s : State) (k : Nat) : Byte := sampleByte (s.pixelSample (k / 2)) (k % 2 == 1)

/-- A sample stored at its pixel's place in OBUF (R85). -/
def Memory.setSample (m : Memory) (i : Nat) (y : Sample) : Memory :=
  (m.set (2 * i) (sampleByte y false)).set (2 * i + 1) (sampleByte y true)

/-- A pixel's sample stored in OBUF. -/
def State.storeSample (s : State) (i : Nat) (y : Sample) : State := { s with obuf := s.obuf.setSample i y }

/-- OBUF after CVT of the first `n` pixels (`spec/42_frame.md` R126). -/
def State.convertedObuf (s : State) : Nat → Memory
  | 0 => s.obuf
  | i + 1 => (s.convertedObuf i).setSample i (s.pixelSample i)

/-- OBUF after an ABORT, for its first `n` bytes: each its new byte or its old one, by a free choice
(R123, U9, log entry 3). -/
def State.abortedObuf (s : State) : Nat → Memory
  | 0 => s.obuf
  | k + 1 => (s.abortedObuf k).set k
      (if Config.abortTakesNew s.draws k then s.jobByte k else s.readByte .obuf k)

/-! ## Reset (`spec/70_reset_and_hazards.md`) -/

/-- A clock edge with `rst_n = 0`: every register takes its reset value, a job is abandoned, every
buffer byte takes a fresh draw (R179 to R181). P_MAX and what is still to come are the surroundings'. -/
def State.assertReset (s : State) : State :=
  { State.afterReset s.quads (s.epoch + 1) s.draws with inReset := true, events := s.events }

/-- The first clock edge with `rst_n = 1` after it (R177). -/
def State.releaseReset (s : State) : State := { s with inReset := false }

/-- A transaction while `rst_n = 0`: answered with a free response and free data, without effect
(R178, U11, log entry 3). -/
def State.answerInReset (s : State) (t : Txn) : State :=
  let resp := if Config.okayInReset s.draws then Resp.okay else Resp.slverr
  { s.answer (if t.isWrite then .write resp else .read resp (Config.dataInReset s.draws)) with
    draws := s.draws + 1 }

end Sys2Proof.Machine
end

