-- ==== Sys2Proof/Machine/Command.lean ====
section
/-! DEFINITION. The commands NOP, START, CLEAR and ABORT, and the illegal word (`spec/42_frame.md`
section 1). A command runs within its CMD write, which the port answers OKAY
(`spec/43_bus_access.md` R142). -/

namespace Sys2Proof.Machine

/-! ## START's parts -/

/-- The decode check that fails first, if one does (R118). The products are exact (R89). -/
def State.headerError (s : State) : Option ErrorCode :=
  let n := s.header.width.toNat * s.header.height.toNat
  if s.header.fmt ≠ 0x01 then some .format
  else if s.header.len.toNat ≠ 3 * n then some .length
  else if s.pMax < n then some .capacity
  else none

/-- START clears the previous result before any check (R117). -/
def State.clearResult (s : State) : State := { s with status := s.status.clearResult }

/-- The snapshot of the header (R120). -/
def State.headerJob (s : State) : Job where
  width := s.header.width
  height := s.header.height
  copyMeta := s.ctrl.metaCopy
  seq := s.header.seq
  sec := s.header.sec
  nsec := s.header.nsec

/-- A START that passes its checks (R120). -/
def State.beginJob (s : State) : State := { s with job := s.headerJob, status := s.status.setBusy }

/-! ## What each command does -/

/-- START (R116). -/
def State.runStart (s : State) : State :=
  if s.status.busy then s.raiseCmdError
  else
    match s.headerError with
    | some e => s.clearResult.raiseDecodeError e
    | none => s.clearResult.beginJob

/-- CLEAR (R122). -/
def State.runClear (s : State) : State := { s with status := s.status.clearAll }

/-- ABORT (R123). -/
def State.runAbort (s : State) : State :=
  if s.status.busy then
    { s with obuf := s.abortedObuf (2 * s.job.pixels), status := s.status.clearBusy, draws := s.draws + 1 }
  else s

/-- The effect of a command word (R115 to R124, `spec/30_encoding.md` R87). -/
def State.runCommandWord (s : State) (w : Word) : State :=
  match Command.ofWord w with
  | some .nop => s
  | some .start => s.runStart
  | some .clear => s.runClear
  | some .abort => s.runAbort
  | none => s.raiseCmdError

/-! ## Meanings -/

/-- NOP: no effect (R115). -/
def execNop (s : State) : Host.Outcome State Fault Refusal := .next s.writeOkay

/-- START (R116 to R121). -/
def execStart (s : State) : Host.Outcome State Fault Refusal := .next s.runStart.writeOkay

/-- CLEAR (R122). -/
def execClear (s : State) : Host.Outcome State Fault Refusal := .next s.runClear.writeOkay

/-- ABORT (R123). -/
def execAbort (s : State) : Host.Outcome State Fault Refusal := .next s.runAbort.writeOkay

end Sys2Proof.Machine
end

