-- ==== Sys2Proof/Machine/Bus.lean ====
section
/-! DEFINITION. The six bus operations (`spec/43_bus_access.md`). -/

namespace Sys2Proof.Machine

/-- What a full-word write of a register stores: the fields of a read-write register, the command of
CMD, nothing in a read-only register (R142, `spec/10_state.md` R26). -/
def State.storeRegister (s : State) (w : Word) : Reg → State
  | .ctrl => { s with ctrl := ctrlOfWord w }
  | .cmd => s.runCommandWord w
  | .srcFmt => { s with header := { s.header with fmt := w.extractLsb' 0 8 } }
  | .width => { s with header := { s.header with width := w.extractLsb' 0 16 } }
  | .height => { s with header := { s.header with height := w.extractLsb' 0 16 } }
  | .srcLen => { s with header := { s.header with len := w } }
  | .inSeq => { s with header := { s.header with seq := w } }
  | .inStampSec => { s with header := { s.header with sec := w } }
  | .inStampNsec => { s with header := { s.header with nsec := w } }
  | .id | .version | .status | .outFmt | .outWidth | .outHeight | .outStep | .outLen | .outSeq
  | .outStampSec | .outStampNsec | .frameCount | .errCount | .capacity => s

/-- REG_RD (R141). -/
def execRegRd (off : BitVec 12) (s : State) : Host.Outcome State Fault Refusal :=
  match Reg.ofOffset off with
  | none => .next (s.raiseBusError false)
  | some reg => .next (s.readOkay (s.readRegister reg))

/-- REG_WR (R142). -/
def execRegWr (off : BitVec 12) (wdata : Word) (wstrb : Strobe) (s : State) :
    Host.Outcome State Fault Refusal :=
  match Reg.ofOffset off with
  | none => .next (s.raiseBusError true)
  | some reg =>
    if wstrb = 0xF then .next (s.storeRegister wdata reg).writeOkay else .next (s.raiseBusError true)

/-- IBUF_RD, allowed while BUSY (R143). -/
def execIbufRd (off : BitVec 24) (s : State) : Host.Outcome State Fault Refusal :=
  .next (if s.wordInside .ibuf off then s.readOkay (s.readWord .ibuf off.toNat)
    else s.raiseBusError false)

/-- IBUF_WR, refused while BUSY (R144). -/
def execIbufWr (off : BitVec 24) (wdata : Word) (wstrb : Strobe) (s : State) :
    Host.Outcome State Fault Refusal :=
  .next (if s.wordInside .ibuf off && !s.status.busy then
      (s.writeWord .ibuf off.toNat wdata wstrb).writeOkay
    else s.raiseBusError true)

/-- OBUF_RD, refused while BUSY (R145). -/
def execObufRd (off : BitVec 24) (s : State) : Host.Outcome State Fault Refusal :=
  .next (if s.wordInside .obuf off && !s.status.busy then s.readOkay (s.readWord .obuf off.toNat)
    else s.raiseBusError false)

/-- OBUF_WR, refused while BUSY (R146). -/
def execObufWr (off : BitVec 24) (wdata : Word) (wstrb : Strobe) (s : State) :
    Host.Outcome State Fault Refusal :=
  .next (if s.wordInside .obuf off && !s.status.busy then
      (s.writeWord .obuf off.toNat wdata wstrb).writeOkay
    else s.raiseBusError true)

end Sys2Proof.Machine
end

