-- ==== Sys2Proof/Machine/Convert.lean ====
section
/-! DEFINITION. The engine: CVT of one pixel (`spec/41_rescale.md` R109) and the completion of a job
(`spec/42_frame.md` R127). -/

namespace Sys2Proof.Machine

/-- CVT: the sample of a pixel's channels is stored at the pixel's place in OBUF (R109). The engine
performs it once for each pixel of a job and for no other index. -/
def execCvt (index : Nat) (b g r : Byte) (s : State) : Host.Outcome State Fault Refusal :=
  if s.status.busy && decide (index < s.job.pixels) then
    if index < s.pMax then .next (s.storeSample index (sampleOf b g r))
    else .fault .noSuchByte
  else .fault .cvtOutsideJob

/-- The descriptor a completion latches (R127, `spec/10_state.md` R30, R41 to R47). -/
def Job.descriptor (j : Job) : Descriptor where
  width := j.width
  height := j.height
  step := BitVec.ofNat 17 (2 * j.width.toNat)
  len := BitVec.ofNat 32 (2 * j.pixels)
  seq := if j.copyMeta then j.seq else 0
  sec := if j.copyMeta then j.sec else 0
  nsec := if j.copyMeta then j.nsec else 0

/-- Completion: the emission, one atomic step (R127), in which every pixel is converted (R126): OBUF becomes
what CVT of each pixel leaves there. The order of the pixels within it is log entry 13. -/
def State.complete (s : State) : State :=
  { s with
    obuf := s.convertedObuf s.job.pixels
    out := s.job.descriptor
    frameCount := s.frameCount + 1
    status := s.status.setDone }

/-- The engine's own step: it completes a running job and otherwise does nothing (R127, R5). -/
def State.completeIfBusy (s : State) : State := if s.status.busy then s.complete else s

end Sys2Proof.Machine
end

