-- ==== Sys2Proof/Machine/Dispatch.lean ====
section
/-! DEFINITION. One arm per row of `spec/opcode_table.json`. -/

namespace Sys2Proof.Machine

def exec (i : Instr) (s : State) : Host.Outcome State Fault Refusal :=
  match i with
  | .regRd off => Sys2Proof.Machine.execRegRd off s
  | .regWr off wdata wstrb => Sys2Proof.Machine.execRegWr off wdata wstrb s
  | .ibufRd off => Sys2Proof.Machine.execIbufRd off s
  | .ibufWr off wdata wstrb => Sys2Proof.Machine.execIbufWr off wdata wstrb s
  | .obufRd off => Sys2Proof.Machine.execObufRd off s
  | .obufWr off wdata wstrb => Sys2Proof.Machine.execObufWr off wdata wstrb s
  | .nop => Sys2Proof.Machine.execNop s
  | .start => Sys2Proof.Machine.execStart s
  | .clear => Sys2Proof.Machine.execClear s
  | .abort => Sys2Proof.Machine.execAbort s
  | .cvt index b g r => Sys2Proof.Machine.execCvt index b g r s

end Sys2Proof.Machine
end

