-- ==== Sys2Proof/Machine/Schedule.lean ====
section
/-! DEFINITION. What one event does, and which comes next (`spec/20_memory.md` R67, R74). -/

namespace Sys2Proof.Machine

/-- A transaction at the port: the operation its key selects, or BusError where it selects none
(`spec/30_encoding.md` R83, R91). -/
def runTxn (t : Txn) (s : State) : Host.Outcome State Fault Refusal :=
  match decode (.bus t) with
  | .ok i => exec i s
  | .reject _ => .next (s.raiseBusError t.isWrite)

/-- One event. While `rst_n = 0` a transaction has no effect and the engine has no job
(`spec/70_reset_and_hazards.md` R178, R180). -/
def runEvent (e : Event) (s : State) : Host.Outcome State Fault Refusal :=
  match e with
  | .bus t => if s.inReset then .next (s.answerInReset t) else runTxn t s
  | .complete => if s.inReset then .next s else .next s.completeIfBusy
  | .assertReset => .next s.assertReset
  | .releaseReset => .next s.releaseReset

/-- The oldest event; where none is left, a running job completes (weak fairness, R191) and an idle
block waits (R180). -/
def nextStep (s : State) : Host.Outcome State Fault Refusal :=
  match s.events with
  | e :: rest => runEvent e { s with events := rest }
  | [] => if s.inReset then .next s else .next s.completeIfBusy

/-- A state whose next event is the operation of a coded form. A transaction stands at the head of the
events, with `rst_n = 1`. A PIX24 stands in IBUF at its index, a job one pixel high that ends with it
runs, and its completion, which converts the pixel, is the next event: no step of the engine converts a pixel
by itself (`spec/00_scope.md` R5). -/
def State.withCode (s : State) : Code → State
  | .bus t => { s with inReset := false, events := .bus t :: s.events }
  | .pixel index p =>
    { (((s.writeByte .ibuf (3 * index) (pixB p)).writeByte .ibuf (3 * index + 1) (pixG p)).writeByte
        .ibuf (3 * index + 2) (pixR p)) with
      inReset := false
      job := { s.job with width := BitVec.ofNat 16 (index + 1), height := 1 }
      status := s.status.clearResult.setBusy
      events := .complete :: s.events }

end Sys2Proof.Machine
end

