-- ==== Sys2Proof/Machine/Step.lean ====
section
/-! DEFINITION. The step of the machine, and how a coded word is placed before it. -/

namespace Sys2Proof.Machine

/-- One event of the total order (`spec/20_memory.md` R74). -/
def step (s : State) : Host.Outcome State Fault Refusal := nextStep s

/-- `s` with a word of `spec/opcode_table.json` as what the next step runs. Log entry 7. -/
def State.withFetchWord (s : State) (nbits w : Nat) : State := s.withCode (tableCode nbits w)

end Sys2Proof.Machine
end

