-- ==== Sys2Proof/Machine/Script.lean ====
section
/-! DEFINITION. Host scripts: the spec's notation for sequences of bus transactions, what each line expands
to, and a host that plays a script on the machine (`spec/30_encoding.md` section 5). -/

namespace Sys2Proof.Machine

/-- A written address (R93): a number, a register name, `IBUF+n` or `OBUF+n`. -/
inductive Place where
  | number (a : Addr)
  | reg (r : Reg)
  | buf (sp : Space) (n : Nat)
deriving DecidableEq, Repr

/-- The offset in the aperture where a buffer's window starts (R93, `spec/20_memory.md` R61). -/
def windowBase : Space → Nat
  | .ibuf => 0x1000000
  | .obuf => 0x2000000

/-- The address a place denotes (R93). A sum that does not fit 26 bits is taken modulo 2^26: the rule says
nothing of it, and this is the model's choice (DESIGN CHOICE, log entry 17). -/
def placeAddr : Place → Addr
  | .number a => a
  | .reg r => r.offset.setWidth 26
  | .buf sp n => BitVec.ofNat 26 (windowBase sp + n)

/-- A machine statement: `WR addr, data, strb`, with its default strobe, or `RD addr` (R93). -/
inductive Stmt where
  | wr (p : Place) (data : Word) (strb : Strobe := 0xF)
  | rd (p : Place)
deriving DecidableEq, Repr

/-- The transaction of a machine statement: `TK = 0x4000000 | addr` for WR, `TK = addr` for RD (R95). -/
def stmtTxn : Stmt → Txn
  | .wr p data strb => ⟨0x4000000 ||| (placeAddr p).setWidth 27, data, strb⟩
  | .rd p => ⟨(placeAddr p).setWidth 27, 0, 0⟩

/-- The suffix of a statement: the response, and optionally the data, which R93 gives a meaning for RD
(of a WR: log entry 18). -/
structure Expected where
  resp : Resp
  data : Option Word
deriving DecidableEq, Repr

/-- A statement without a suffix expects OKAY (R93). -/
def expectOkay : Expected := ⟨.okay, none⟩

/-- A port's answer is the expected one (R93). The rule gives expected data a meaning for RD only: data in the
suffix of a WR is ignored, which is the model's choice (DESIGN CHOICE, log entry 18). -/
def expectedMet (x : Expected) : Reply → Bool
  | .read resp rdata => resp == x.resp && (x.data.isNone || x.data == some rdata)
  | .write resp => resp == x.resp

/-- A line of a script: a machine statement with what it expects, or a pseudo-statement (R93, R94). -/
inductive Line where
  | stmt (s : Stmt) (expected : Expected := expectOkay)
  | cmd (c : Command)
  | header (fmt width height len : Word)
  | metadata (seq sec nsec : Word)
  | poll (p : Place) (mask value : Word)
  | bytes (sp : Space) (off : Nat) (bs : List Byte)
deriving DecidableEq, Repr

/-- `WAITIDLE` is `POLL STATUS, 0x1, 0x0` (R94). -/
def waitIdle : Line := .poll (.reg .status) 0x1 0x0

/-- The line is a POLL, a script's only control flow (R96). -/
def Line.isPoll : Line → Bool
  | .poll _ _ _ => true
  | .stmt _ _ | .cmd _ | .header _ _ _ _ | .metadata _ _ _ | .bytes _ _ _ => false

/-- A machine statement as a script sends it: once, or, with a mask and a value, as a POLL repeats it. -/
structure Action where
  stmt : Stmt
  expected : Expected := expectOkay
  pollFor : Option (Word × Word) := none
deriving DecidableEq, Repr

/-- A read ends its POLL: `(rdata & mask) = value` (R94). -/
def pollMet (mask value : Word) : Reply → Bool
  | .read _ rdata => (rdata &&& mask) == value
  | .write _ => false

/-- A write of a register by its name, with the default strobe (R93). -/
def wrReg (r : Reg) (data : Word) : Stmt := .wr (.reg r) data

/-- Lane `j` of BYTES's word `w` carries a byte of the list (R94). -/
def bytesLane (off n w j : Nat) : Bool := decide (off ≤ 4 * w + j) && decide (4 * w + j < off + n)

/-- The byte on lane `j` of BYTES's word `w`, 0 on a lane that carries none (R94). -/
def bytesData (off : Nat) (bs : List Byte) (w j : Nat) : Byte :=
  if bytesLane off bs.length w j then bs.getD (4 * w + j - off) 0 else 0

/-- BYTES's write of word `w` (R94). -/
def bytesStmt (sp : Space) (off : Nat) (bs : List Byte) (w : Nat) : Stmt :=
  let lane := fun j => BitVec.ofBool (bytesLane off bs.length w j)
  .wr (.buf sp (4 * w))
    (wordOf (bytesData off bs w 0) (bytesData off bs w 1) (bytesData off bs w 2) (bytesData off bs w 3))
    (lane 3 ++ lane 2 ++ lane 1 ++ lane 0)

/-- The number of words BYTES writes: from `off div 4` to `(off + n - 1) div 4` (R94). With no byte it
writes none, where the rule's bounds would give one word of strobe 0 at an `off` that is no multiple of 4:
the rule leaves an empty list open, and this is the model's choice (DESIGN CHOICE, log entry 16). -/
def bytesWords (off n : Nat) : Nat := if n = 0 then 0 else (off + n - 1) / 4 + 1 - off / 4

/-- What a line expands to (R94): machine statements sent once each, or a POLL's read. -/
def expandLine : Line → List Action
  | .stmt s expected => [{ stmt := s, expected := expected }]
  | .cmd c => [{ stmt := wrReg .cmd c.word }]
  | .header fmt width height len =>
    [{ stmt := wrReg .srcFmt fmt }, { stmt := wrReg .width width }, { stmt := wrReg .height height },
     { stmt := wrReg .srcLen len }]
  | .metadata seq sec nsec =>
    [{ stmt := wrReg .inSeq seq }, { stmt := wrReg .inStampSec sec }, { stmt := wrReg .inStampNsec nsec }]
  | .poll p mask value => [{ stmt := .rd p, pollFor := some (mask, value) }]
  | .bytes sp off bs =>
    (List.range (bytesWords off bs.length)).map (fun k => { stmt := bytesStmt sp off bs (off / 4 + k) })

/-- A script's actions, in order (R93, R96). -/
def scriptActions (ls : List Line) : List Action := ls.flatMap expandLine

/-- The transaction of an action as an event. -/
def Action.event (a : Action) : Event := .bus (stmtTxn a.stmt)

/-- The transactions of a script's actions, each once and in order: all that a script without POLL sends. -/
def scriptEvents (ls : List Line) : List Event := (scriptActions ls).map Action.event

/-! ## Playing a script (R94, R96) -/

/-- The host goes on to the next action after an answer: always, but in a POLL only once the answer meets
its condition (R94). -/
def Action.goesOn (a : Action) (answer : Option Reply) : Bool :=
  match a.pollFor with
  | none => true
  | some (mask, value) => answer.any (pollMet mask value)

/-- A script under way on the machine: what it has still to do, nothing at its end, and whether every answer
so far was the expected one (R93). -/
structure Playing where
  state : State
  rest : List Action
  asExpected : Bool
deriving DecidableEq, Repr

/-- A script at its start. -/
def startScript (ls : List Line) (s : State) : Playing :=
  { state := s, rest := scriptActions ls, asExpected := true }

/-- After an answer: an action that does not go on is sent again. -/
def Playing.afterAnswer (p : Playing) (a : Action) (rest : List Action) (t : State) : Playing where
  state := t
  rest := if a.goesOn t.reply then rest else a :: rest
  asExpected := p.asExpected && t.reply.any (expectedMet a.expected)

/-- The host's next transaction, after `gap` steps of the machine's own; nothing at the script's end. -/
def playOne (gap : Nat) (p : Playing) : Host.Outcome Playing Fault Refusal :=
  match p.rest with
  | [] => .next p
  | a :: rest =>
    match Sys2Proof.core.run gap p.state with
    | .next s =>
      match step { s with events := a.event :: s.events } with
      | .next t => .next (p.afterAnswer a rest t)
      | .fault r => .fault r
      | .refused r => .refused r
    | .fault r => .fault r
    | .refused r => .refused r

/-- A host that plays a script, one transaction for each number of the list, which says how many steps of
the machine's own come before it. A POLL repeats its read until an answer meets its condition, so the number
of its reads is open (R94, U17); where the list ends first, the script still waits (R96, log entry 14). -/
def play : List Nat → Playing → Host.Outcome Playing Fault Refusal
  | [], p => .next p
  | gap :: gaps, p =>
    match playOne gap p with
    | .next q => play gaps q
    | .fault r => .fault r
    | .refused r => .refused r

/-- The end state of a script: after its last transaction, with what is still to come and every completion
that is due also taken (R96). -/
def Playing.endState (p : Playing) : Host.Outcome State Fault Refusal :=
  Sys2Proof.core.run (p.state.events.length + 1) p.state

end Sys2Proof.Machine
end

