-- ==== Sys2Proof/Safety.lean ====
section
/-! DEFINITION. What the spec promises of every reachable state, and of runs. -/

namespace Sys2Proof.Machine

/-- The invariants of `spec/10_state.md` R59, numbered as there, and those of the model that they rest
on: a running job fits the buffers (`spec/42_frame.md` R118, R120), a block in reset is IDLE with irq low
(`spec/70_reset_and_hazards.md` R178, R180), and each buffer's list is canonical and within its size. -/
structure State.Inv (s : State) : Prop where
  /-- R59 item 1. -/
  busyNoResult : s.status.busy = true → s.status.done = false ∧ s.status.err = false
  /-- R59 item 2. -/
  notDoneAndErr : ¬(s.status.done = true ∧ s.status.err = true)
  /-- R59 item 3. -/
  errIffCode : s.status.err = false ↔ s.status.errCode = 0
  /-- R59 item 4. -/
  codeRange : s.status.errCode.toNat ≤ 3
  /-- R59 item 5. -/
  stepAndLen : s.out.step.toNat = 2 * s.out.width.toNat ∧
    s.out.len.toNat = 2 * s.out.width.toNat * s.out.height.toNat
  /-- R59 item 6. -/
  outFits : s.out.width.toNat * s.out.height.toNat ≤ s.pMax
  jobFits : s.status.busy = true → s.job.pixels ≤ s.pMax
  resetQuiet : s.inReset = true → s.status.busy = false ∧ s.irq = false
  ibufCanonical : s.ibuf.wf = true ∧ s.ibuf.within (s.bufSize .ibuf) = true
  obufCanonical : s.obuf.wf = true ∧ s.obuf.within (s.bufSize .obuf) = true

/-- The six causes of BusError (`spec/20_memory.md` R66), of a transaction by its key, data and strobe
and the control state. -/
def State.busErrorCause (s : State) (t : Txn) : Prop :=
  let addr := (t.key.extractLsb' 0 26).toNat
  let isReg := addr < 0x1000
  let isIbuf := 0x1000000 ≤ addr ∧ addr < 0x2000000
  let isObuf := 0x2000000 ≤ addr ∧ addr < 0x3000000
  addr % 4 ≠ 0
  ∨ (¬isReg ∧ ¬isIbuf ∧ ¬isObuf) ∨ (isReg ∧ 0x058 < addr)
  ∨ (isIbuf ∧ s.bufSize .ibuf < addr - 0x1000000 + 4)
  ∨ (isObuf ∧ s.bufSize .obuf < addr - 0x2000000 + 4)
  ∨ (isReg ∧ t.isWrite = true ∧ t.wstrb ≠ 0xF)
  ∨ (isIbuf ∧ t.isWrite = true ∧ s.status.busy = true)
  ∨ (isObuf ∧ s.status.busy = true)

/-- `k` steps lead from one state to another. -/
def Runs (k : Nat) (s t : State) : Prop := Sys2Proof.core.run k s = .next t

/-- The event is a full-word write of a command's word to CMD. -/
def Event.isCommand (c : Command) (e : Event) : Prop := e = .bus (commandTxn c.word)

/-- The constraints a luma function must meet (`spec/40_luma.md` R103, items 2 to 5; item 1 is that it
is a function of the three channels). -/
structure ConformingLuma (luma : Byte → Byte → Byte → Byte) : Prop where
  grey : ∀ v, luma v v v = v
  monotone : ∀ b g r b' g' r' : Byte, b ≤ b' → g ≤ g' → r ≤ r' → luma b g r ≤ luma b' g' r'
  redExample : luma 0 0 255 = 76
  whiteExample : luma 255 255 255 = 255
  /-- Less than 1 away from the exact luma. -/
  accurate : ∀ b g r, 1000 * (luma b g r).toNat < lumaSum b g r + 1000 ∧
    lumaSum b g r < 1000 * (luma b g r).toNat + 1000

/-- The pixels of a list converted one after the other by the operation CVT, each on the channels in
IBUF (`spec/41_rescale.md` R112). -/
def runCvts : List Nat → State → Host.Outcome State Fault Refusal
  | [], s => .next s
  | i :: rest, s =>
    match exec (.cvt i (s.readByte .ibuf (3 * i)) (s.readByte .ibuf (3 * i + 1))
        (s.readByte .ibuf (3 * i + 2))) s with
    | .next t => runCvts rest t
    | .fault r => .fault r
    | .refused r => .refused r

end Sys2Proof.Machine
end

