-- ==== Sys2Proof/Certificates/Slice0/Obligations.lean ====
section
/-! DEFINITION. The statements about the block, for the provers. Each says which rule of spec/ it
formalises. -/

open Sys2Proof Sys2Proof.Machine

/-! ## Encoding (`spec/30_encoding.md`) -/

/-- R83, R84, R87, R95: no bit of an encoding is dropped, and no two operations share a coded form. Which
of its two names a command's write has, and so which instructions are well-formed, is the model's naming (log
entry 15). -/
def Obligations.DecodeOfEncodeIsTheInstruction : Prop :=
  ∀ i : Instr, i.wellFormed = true → decode (encode i) = .ok i

/-- R83, R84, R87, R95: a coded form that decodes is the coded form of its instruction; a read's data and strobe
lanes carry nothing. What is decoded is well-formed: that a full-word write of a command word to CMD is named
as the command and not as REG_WR, which R83 alone would name it, is the model's naming (DEDUCED, log entry
15). -/
def Obligations.DecodedFormsHaveOneMeaning : Prop :=
  (∀ (t : Txn) (i : Instr), decode (.bus t) = .ok i →
    encode i = .bus (if t.isWrite then t else ⟨t.key, 0, 0⟩)) ∧
  (∀ (px : Nat) (p : BitVec 24) (i : Instr), decode (.pixel px p) = .ok i → encode i = .pixel px p) ∧
  (∀ (c : Code) (i : Instr), decode c = .ok i → i.wellFormed = true)

/-- R83: the decoder selects the bus operation by the table's match and mask, and no key matches two
rows. -/
def Obligations.DecoderFollowsTheKeyTable : Prop :=
  (∀ (t : Txn) (op : BusOp),
    (∃ i, decode (.bus t) = .ok i ∧ i.busOp = some op) ↔
      ∃ row ∈ keyRows, row.op = op ∧ t.key &&& row.mask = row.pattern) ∧
  (∀ k : Key, ∀ row ∈ keyRows, ∀ row' ∈ keyRows,
    k &&& row.mask = row.pattern → k &&& row'.mask = row'.pattern → row = row')

/-- R87: exactly the words 0 to 3 are commands, each its own. -/
def Obligations.CommandWordsAreZeroToThree : Prop :=
  (∀ c : Command, Command.ofWord c.word = some c) ∧
  (∀ (w : Word) (c : Command), Command.ofWord w = some c → w = c.word) ∧
  (∀ w : Word, Command.ofWord w = none ↔ 4 ≤ w.toNat) ∧
  [Command.nop, .start, .clear, .abort].map Command.word = [0, 1, 2, 3]

/-- The examples of R95 and one word of each further kind of `spec/opcode_table.json`. The name of a command's
write and the names under which the decoder refuses are the model's (log entry 15). -/
def Obligations.SpecWordsDecode : Prop :=
  decode (.bus ⟨0x400000C, 0x00000001, 0xF⟩) = .ok .start ∧
  decode (.bus ⟨0x0000010, 0, 0⟩) = .ok (.regRd 0x010) ∧
  decode (.bus ⟨0x5000004, 0x0000FFFF, 0x3⟩) = .ok (.ibufWr 0x000004 0x0000FFFF 0x3) ∧
  decode (.bus ⟨0x4000018, 0xFFFF0002, 0xF⟩) = .ok (.regWr 0x018 0xFFFF0002 0xF) ∧
  decode (.bus ⟨0x100002C, 0, 0⟩) = .ok (.ibufRd 0x00002C) ∧
  decode (.bus ⟨0x200001C, 0, 0⟩) = .ok (.obufRd 0x00001C) ∧
  decode (.bus ⟨0x6000000, 0xDEADBEEF, 0xF⟩) = .ok (.obufWr 0 0xDEADBEEF 0xF) ∧
  decode (.pixel 5 0x1E140A) = .ok (.cvt 5 0x0A 0x14 0x1E) ∧
  decode (.bus ⟨0x4001000, 1, 0xF⟩) = .reject .unmappedPage ∧
  decode (.bus ⟨0x3000000, 0, 0⟩) = .reject .unmappedRegion

/-- R93, R95: a machine statement's key is the write flag above the address its place denotes; a
register's address is its offset, which lies in the register region. The address of a place beyond 26 bits is
the model's choice (log entry 17). -/
def Obligations.StatementsEncodeAsKeyDataAndStrobe : Prop :=
  (∀ (p : Place) (data : Word) (strb : Strobe),
    stmtTxn (.wr p data strb) = ⟨1#1 ++ placeAddr p, data, strb⟩) ∧
  (∀ p : Place, stmtTxn (.rd p) = ⟨0#1 ++ placeAddr p, 0, 0⟩) ∧
  (∀ r : Reg, decode (.bus (stmtTxn (.rd (.reg r)))) = .ok (.regRd r.offset)) ∧
  (∀ n : Nat, n < 2 ^ 24 →
    decode (.bus (stmtTxn (.rd (.buf .ibuf n)))) = .ok (.ibufRd (BitVec.ofNat 24 n)) ∧
    decode (.bus (stmtTxn (.rd (.buf .obuf n)))) = .ok (.obufRd (BitVec.ofNat 24 n)))

/-! ## One pixel (`spec/40_luma.md`, `spec/41_rescale.md`) -/

/-- R97: LUMA8 is the exact luma rounded half up, and no bit is lost in its 8-bit result. -/
def Obligations.LumaRoundsTheExactLumaHalfUp : Prop :=
  ∀ b g r : Byte,
    (luma8 b g r).toNat = (114 * b.toNat + 587 * g.toNat + 299 * r.toNat + 500) / 1000

/-- R101 items 1 to 5, and R100's ties: range, grey fixed point, monotone in each channel, within half a unit
of the exact luma with equality exactly at ties, ties go up, single-channel thresholds. -/
def Obligations.LumaLaws : Prop :=
  (∀ b g r : Byte, (luma8 b g r).toNat ≤ 255) ∧
  (∀ v : Byte, luma8 v v v = v) ∧
  (∀ b g r b' g' r' : Byte, b ≤ b' → g ≤ g' → r ≤ r' → luma8 b g r ≤ luma8 b' g' r') ∧
  (∀ b g r : Byte,
    let n := lumaSum b g r
    let y := (luma8 b g r).toNat
    1000 * y ≤ n + 500 ∧ n ≤ 1000 * y + 500 ∧
    ((1000 * y = n + 500 ∨ n = 1000 * y + 500) ↔ n % 1000 = 500) ∧
    (n % 1000 = 500 → y = n / 1000 + 1)) ∧
  (∀ b : Byte, 1 ≤ (luma8 b 0 0).toNat ↔ 5 ≤ b.toNat) ∧
  (∀ g : Byte, 1 ≤ (luma8 0 g 0).toNat ↔ 1 ≤ g.toNat) ∧
  (∀ r : Byte, 1 ≤ (luma8 0 0 r).toNat ↔ 2 ≤ r.toNat)

/-- R99: the widths of the sums, and the multiply-and-shift circuit that returns the same value. -/
def Obligations.LumaIsTheMultiplyShiftCircuit : Prop :=
  ∀ b g r : Byte,
    lumaSum b g r ≤ 255000 ∧ lumaSum b g r + 500 < 2 ^ 18 ∧
    (luma8 b g r).toNat = ((lumaSum b g r + 500) * 67109) >>> 26

/-- R105, R107, R108: the scale is exactly 16, the clamp is the 12-bit one and never acts. -/
def Obligations.RescaleIsTimesSixteenAndTheClampNeverActs : Prop :=
  (∀ y : Byte, (rescale12 y).toNat = 16 * y.toNat ∧ 16 * y.toNat ≤ 4080) ∧
  (∀ v : Sample, (clamp12 v).toNat = min v.toNat 4095)

/-- R86: every output sample has zeros in bits 15..12 and 3..0 and the luma in bits 11..4. -/
def Obligations.SamplesHaveTheLumaInBitsElevenToFour : Prop :=
  ∀ b g r : Byte,
    (sampleOf b g r).extractLsb' 12 4 = 0 ∧ (sampleOf b g r).extractLsb' 0 4 = 0 ∧
    (sampleOf b g r).extractLsb' 4 8 = luma8 b g r

/-- R110 items 1, 2, 3 and 5: the range, the exact scale on greys, monotony in each channel and strictly in
the luma, and the 256 values, each reached. -/
def Obligations.SampleLaws : Prop :=
  (∀ b g r : Byte, (sampleOf b g r).toNat ≤ 4080) ∧
  (∀ v : Byte, (sampleOf v v v).toNat = 16 * v.toNat) ∧
  (∀ b g r b' g' r' : Byte, b ≤ b' → g ≤ g' → r ≤ r' → sampleOf b g r ≤ sampleOf b' g' r') ∧
  (∀ b g r b' g' r' : Byte, luma8 b g r < luma8 b' g' r' → sampleOf b g r < sampleOf b' g' r') ∧
  (∀ y : Sample, (∃ b g r : Byte, sampleOf b g r = y) ↔ ∃ k : Nat, k < 256 ∧ y.toNat = 16 * k)

/-- R103: LUMA8 meets the five constraints on LUMA_FN; R102: so do both fixed-point forms, which are
other functions. -/
def Obligations.LumaAndTheFixedPointFormsConform : Prop :=
  ConformingLuma luma8 ∧ ConformingLuma lumaQ14 ∧ ConformingLuma lumaQ15 ∧
  lumaQ14 0 2 175 ≠ luma8 0 2 175 ∧ lumaQ15 0 2 175 ≠ luma8 0 2 175

/-- R111: under every luma function that meets R103, CVT's sample is `min(16 * LUMA_FN, 4095)` and keeps
laws 1 to 5 of R110, the third in its non-strict form. -/
def Obligations.EveryConformingLumaKeepsTheSampleLaws : Prop :=
  ∀ luma : Byte → Byte → Byte → Byte, ConformingLuma luma →
    (∀ b g r, (sampleWith luma b g r).toNat = min (16 * (luma b g r).toNat) 4095) ∧
    (∀ b g r, (sampleWith luma b g r).toNat ≤ 4080) ∧
    (∀ v, (sampleWith luma v v v).toNat = 16 * v.toNat) ∧
    (∀ b g r b' g' r', b ≤ b' → g ≤ g' → r ≤ r' →
      sampleWith luma b g r ≤ sampleWith luma b' g' r') ∧
    (∀ b g r, (sampleWith luma b g r).extractLsb' 12 4 = 0 ∧
      (sampleWith luma b g r).extractLsb' 0 4 = 0 ∧
      (sampleWith luma b g r).extractLsb' 4 8 = luma b g r) ∧
    (∀ y : Sample, (∃ b g r, sampleWith luma b g r = y) ↔ ∃ k : Nat, k < 256 ∧ y.toNat = 16 * k)

/-! ## The engine (`spec/41_rescale.md` R109, R112; `spec/42_frame.md` R126, R127) -/

/-- R109: CVT of a pixel of the running job stores `min(16 * Y8, 4095)` of its channels at bytes `2i`
and `2i+1` of OBUF and changes no other byte and nothing else. -/
def Obligations.CvtStoresTheSampleOfItsPixel : Prop :=
  ∀ (s : State) (px : Nat) (b g r : Byte),
    s.status.busy = true → px < s.job.pixels → px < s.pMax →
    ∃ (t : State) (y : Sample), exec (.cvt px b g r) s = .next t ∧
      y.toNat = min (16 * ((114 * b.toNat + 587 * g.toNat + 299 * r.toNat + 500) / 1000)) 4095 ∧
      t.readByte .obuf (2 * px) = y.extractLsb' 0 8 ∧
      t.readByte .obuf (2 * px + 1) = y.extractLsb' 8 8 ∧
      (∀ k, k ≠ 2 * px → k ≠ 2 * px + 1 → t.readByte .obuf k = s.readByte .obuf k) ∧
      (∀ k, t.readByte .ibuf k = s.readByte .ibuf k) ∧
      t = { s with obuf := t.obuf }

/-- The model's choice (log entry 9), at the operands R109 gives CVT: outside them it stops by name. -/
def Obligations.CvtOutsideItsOperandsStops : Prop :=
  ∀ (s : State) (px : Nat) (b g r : Byte),
    (¬(s.status.busy = true ∧ px < s.job.pixels) → exec (.cvt px b g r) s = .fault .cvtOutsideJob) ∧
    (s.status.busy = true → px < s.job.pixels → s.pMax ≤ px →
      exec (.cvt px b g r) s = .fault .noSuchByte)

/-- R126, R127, R30: at its turn, or (the model's weak fairness, log entry 5) when nothing else is left to
happen, the engine emits the frame of a running job: every sample in its place, no other byte of a buffer changed, the descriptor latched, the
frame counted, BUSY cleared and DONE set, nothing else changed. -/
def Obligations.CompletionEmitsTheFrame : Prop :=
  ∀ (s : State) (es : List Event),
    s.inReset = false → s.status.busy = true → s.job.pixels ≤ s.pMax →
    (s.events = .complete :: es ∨ (s.events = [] ∧ es = [])) →
    ∃ t : State, step s = .next t ∧
      (∀ i, i < s.job.width.toNat * s.job.height.toNat →
        let y := sampleOf (s.readByte .ibuf (3 * i)) (s.readByte .ibuf (3 * i + 1))
          (s.readByte .ibuf (3 * i + 2))
        t.readByte .obuf (2 * i) = y.extractLsb' 0 8 ∧
        t.readByte .obuf (2 * i + 1) = y.extractLsb' 8 8) ∧
      (∀ k, 2 * (s.job.width.toNat * s.job.height.toNat) ≤ k →
        t.readByte .obuf k = s.readByte .obuf k) ∧
      (∀ k, t.readByte .ibuf k = s.readByte .ibuf k) ∧
      t.out.width = s.job.width ∧ t.out.height = s.job.height ∧
      t.out.step.toNat = 2 * s.job.width.toNat ∧
      t.out.len.toNat = 2 * (s.job.width.toNat * s.job.height.toNat) ∧
      (s.job.copyMeta = true →
        t.out.seq = s.job.seq ∧ t.out.sec = s.job.sec ∧ t.out.nsec = s.job.nsec) ∧
      (s.job.copyMeta = false → t.out.seq = 0 ∧ t.out.sec = 0 ∧ t.out.nsec = 0) ∧
      t = { s with
        events := es, obuf := t.obuf, out := t.out, frameCount := s.frameCount + 1
        status := { s.status with busy := false, done := true } }

/-- R109, R112, R126: CVT of the pixels of a job in any order leaves in OBUF what the completion leaves
there. -/
def Obligations.PixelOrderIsNotObservable : Prop :=
  ∀ (s : State) (order : List Nat),
    s.status.busy = true → s.job.pixels ≤ s.pMax → order.Perm (List.range s.job.pixels) →
    ∃ t : State, runCvts order s = .next t ∧
      (∀ k, t.readByte .obuf k = s.complete.readByte .obuf k) ∧ t = { s with obuf := t.obuf }

/-- R132: two jobs with the same snapshot and the same IBUF bytes 0 to 3N-1 leave the same OBUF bytes 0
to 2N-1 and the same descriptor, whatever else differs. They complete at the end of the events, by the
model's weak fairness (log entry 5). -/
def Obligations.EqualJobsLeaveEqualFrames : Prop :=
  ∀ s s' : State,
    s.inReset = false → s'.inReset = false → s.status.busy = true → s'.status.busy = true →
    s.events = [] → s'.events = [] → s.job = s'.job →
    (∀ k, k < 3 * s.job.pixels → s.readByte .ibuf k = s'.readByte .ibuf k) →
    ∃ t t' : State, step s = .next t ∧ step s' = .next t' ∧ t.out = t'.out ∧
      ∀ k, k < 2 * s.job.pixels → t.readByte .obuf k = t'.readByte .obuf k

/-- R5, R127: the engine does nothing while IDLE. The step at the end of the events is the model's choice (log
entry 5). -/
def Obligations.EngineDoesNothingWhileIdle : Prop :=
  ∀ (s : State) (es : List Event), s.status.busy = false →
    (s.events = .complete :: es ∨ (s.events = [] ∧ es = [])) →
    step s = .next { s with events := es }

/-! ## Commands (`spec/42_frame.md`) -/

/-- R115: NOP answers OKAY and changes nothing, BUSY or IDLE. -/
def Obligations.NopChangesNothing : Prop :=
  ∀ s : State, exec .nop s = .next { s with reply := some (.write .okay) }

/-- R117, R118, R120: a START whose header passes the three checks takes the snapshot, clears the previous
result, keeps CMD_ERR and sets BUSY; nothing else changes. -/
def Obligations.StartWithAGoodHeaderBeginsTheJob : Prop :=
  ∀ s : State, s.status.busy = false → s.header.fmt = 0x01 →
    s.header.len.toNat = 3 * (s.header.width.toNat * s.header.height.toNat) →
    s.header.width.toNat * s.header.height.toNat ≤ s.pMax →
    exec .start s = .next { s with
      job := {
        width := s.header.width, height := s.header.height, copyMeta := s.ctrl.metaCopy
        seq := s.header.seq, sec := s.header.sec, nsec := s.header.nsec }
      status := { busy := true, done := false, err := false, cmdErr := s.status.cmdErr, errCode := 0 }
      reply := some (.write .okay) }

/-- R118, R119, R155, R160: of the checks FORMAT, LENGTH and CAPACITY, the first that fails is reported,
once, with its code, and nothing else changes. -/
def Obligations.StartReportsTheFirstFailedCheck : Prop :=
  ∀ s : State, s.status.busy = false →
    let n := s.header.width.toNat * s.header.height.toNat
    let report := fun code : BitVec 4 => ({ s with
      status := { busy := false, done := false, err := true, cmdErr := s.status.cmdErr, errCode := code }
      errCount := s.errCount + 1
      reply := some (.write .okay) } : State)
    (s.header.fmt ≠ 0x01 → exec .start s = .next (report 0x1)) ∧
    (s.header.fmt = 0x01 → s.header.len.toNat ≠ 3 * n → exec .start s = .next (report 0x2)) ∧
    (s.header.fmt = 0x01 → s.header.len.toNat = 3 * n → s.pMax < n →
      exec .start s = .next (report 0x3))

/-- R121, R163: START while BUSY sets CMD_ERR and nothing else. -/
def Obligations.StartWhileBusyIsACommandError : Prop :=
  ∀ s : State, s.status.busy = true →
    exec .start s = .next { s with
      status := { s.status with cmdErr := true }, reply := some (.write .okay) }

/-- R122: CLEAR clears DONE, ERR, ERR_CODE and CMD_ERR, keeps BUSY, changes nothing else, and drops
irq. -/
def Obligations.ClearDropsTheResultFlags : Prop :=
  ∀ s : State, ∃ t : State, exec .clear s = .next t ∧
    t = { s with
      status := { busy := s.status.busy, done := false, err := false, cmdErr := false, errCode := 0 }
      reply := some (.write .okay) } ∧
    t.irq = false

/-- R123: ABORT while IDLE does nothing. While BUSY it clears BUSY and leaves each OBUF byte below 2N as it
stands or as CVT of its pixel writes it, every other byte and everything else as it was (but the model's
own count of free choices, log entry 3). -/
def Obligations.AbortAbandonsTheJob : Prop :=
  ∀ s : State,
    (s.status.busy = false → exec .abort s = .next { s with reply := some (.write .okay) }) ∧
    (s.status.busy = true → ∃ t : State, exec .abort s = .next t ∧
      (∀ i, i < s.job.width.toNat * s.job.height.toNat →
        let y := sampleOf (s.readByte .ibuf (3 * i)) (s.readByte .ibuf (3 * i + 1))
          (s.readByte .ibuf (3 * i + 2))
        (t.readByte .obuf (2 * i) = s.readByte .obuf (2 * i) ∨
          t.readByte .obuf (2 * i) = y.extractLsb' 0 8) ∧
        (t.readByte .obuf (2 * i + 1) = s.readByte .obuf (2 * i + 1) ∨
          t.readByte .obuf (2 * i + 1) = y.extractLsb' 8 8)) ∧
      (∀ k, 2 * (s.job.width.toNat * s.job.height.toNat) ≤ k →
        t.readByte .obuf k = s.readByte .obuf k) ∧
      (∀ k, t.readByte .ibuf k = s.readByte .ibuf k) ∧
      t = { s with
        obuf := t.obuf, status := { s.status with busy := false }, draws := s.draws + 1
        reply := some (.write .okay) })

/-- R124, R163: every other command word, with a legal opcode in its low byte too, sets CMD_ERR and
nothing else, BUSY or IDLE. -/
def Obligations.IllegalCommandWordIsACommandError : Prop :=
  ∀ (s : State) (w : Word), 4 ≤ w.toNat →
    exec (.regWr 0x00C w 0xF) s = .next { s with
      status := { s.status with cmdErr := true }, reply := some (.write .okay) }

/-- R31: a full-word write of CMD runs the command of its word, and a read of CMD returns 0 and changes
nothing. -/
def Obligations.CmdRunsTheCommandOfItsWord : Prop :=
  ∀ s : State,
    (∀ c : Command, exec (.regWr 0x00C c.word 0xF) s = exec c.instr s) ∧
    exec (.regRd 0x00C) s = .next { s with reply := some (.read .okay 0) }

/-- R117, R131: a START that succeeds does so after any earlier result and with the same outcome: the flags
and the error count left by an earlier START change nothing in it but the error count itself. -/
def Obligations.EarlierResultsDoNotAffectAStart : Prop :=
  ∀ (s t : State) (done err : Bool) (code : BitVec 4) (count : Word),
    s.status.busy = false → exec .start s = .next t → t.status.busy = true →
    exec .start { s with
        status := { s.status with done := done, err := err, errCode := code }, errCount := count } =
      .next { t with errCount := count }

/-! ## Register accesses (`spec/43_bus_access.md` R141, R142) -/

/-- R27, R28, R40, R50: ID, VERSION, OUT_FMT and CAPACITY read as their constants, and the read changes
nothing. -/
def Obligations.RegReadReturnsTheConstants : Prop :=
  ∀ s : State,
    exec (.regRd 0x000) s = .next { s with reply := some (.read .okay 0x4C554D41) } ∧
    exec (.regRd 0x004) s = .next { s with reply := some (.read .okay 0x00010000) } ∧
    exec (.regRd 0x030) s = .next { s with reply := some (.read .okay 0x00000010) } ∧
    ∃ v : Word, v.toNat = s.pMax ∧
      exec (.regRd 0x058) s = .next { s with reply := some (.read .okay v) }

/-- R29, R32, R33 to R39, R41 to R49: every other register reads as its fields in their bits, with zero in
the reserved bits. -/
def Obligations.RegReadReturnsTheFields : Prop :=
  ∀ s : State,
    let reads := fun (off : BitVec 12) (n : Nat) =>
      ∃ v : Word, v.toNat = n ∧ exec (.regRd off) s = .next { s with reply := some (.read .okay v) }
    reads 0x008 (s.ctrl.irqEn.toNat + 2 * s.ctrl.metaCopy.toNat) ∧
    reads 0x010 (s.status.busy.toNat + 2 * s.status.done.toNat + 4 * s.status.err.toNat
      + 8 * s.status.cmdErr.toNat + 256 * s.status.errCode.toNat) ∧
    reads 0x014 s.header.fmt.toNat ∧ reads 0x018 s.header.width.toNat ∧
    reads 0x01C s.header.height.toNat ∧ reads 0x020 s.header.len.toNat ∧
    reads 0x024 s.header.seq.toNat ∧ reads 0x028 s.header.sec.toNat ∧
    reads 0x02C s.header.nsec.toNat ∧ reads 0x034 s.out.width.toNat ∧
    reads 0x038 s.out.height.toNat ∧ reads 0x03C s.out.step.toNat ∧
    reads 0x040 s.out.len.toNat ∧ reads 0x044 s.out.seq.toNat ∧
    reads 0x048 s.out.sec.toNat ∧ reads 0x04C s.out.nsec.toNat ∧
    reads 0x050 s.frameCount.toNat ∧ reads 0x054 s.errCount.toNat

/-- R141, R142, R51, R64, R65: a register access completes OKAY exactly where its offset is aligned and at
most 0x058 and a write's strobe is full; elsewhere it raises BusError, which changes nothing. -/
def Obligations.RegAccessesCompleteOrRaiseBusError : Prop :=
  ∀ (s : State) (off : BitVec 12) (w : Word) (st : Strobe),
    (off.toNat % 4 = 0 ∧ off.toNat ≤ 0x058 →
      ∃ v, exec (.regRd off) s = .next { s with reply := some (.read .okay v) }) ∧
    (¬(off.toNat % 4 = 0 ∧ off.toNat ≤ 0x058) →
      exec (.regRd off) s = .next { s with reply := some (.read .slverr 0) }) ∧
    (off.toNat % 4 = 0 ∧ off.toNat ≤ 0x058 ∧ st = 0xF →
      ∃ t, exec (.regWr off w st) s = .next t ∧ t.reply = some (.write .okay)) ∧
    (¬(off.toNat % 4 = 0 ∧ off.toNat ≤ 0x058 ∧ st = 0xF) →
      exec (.regWr off w st) s = .next { s with reply := some (.write .slverr) })

/-- R142, R26: what a full-word write of each register but CMD stores, and that a read-only register
ignores it. -/
def Obligations.RegWriteStoresTheFields : Prop :=
  ∀ (s : State) (w : Word),
    let okay := some (Reply.write Resp.okay)
    exec (.regWr 0x008 w 0xF) s =
      .next { s with ctrl := { irqEn := w.getLsbD 0, metaCopy := w.getLsbD 1 }, reply := okay } ∧
    exec (.regWr 0x014 w 0xF) s =
      .next { s with header := { s.header with fmt := w.setWidth 8 }, reply := okay } ∧
    exec (.regWr 0x018 w 0xF) s =
      .next { s with header := { s.header with width := w.setWidth 16 }, reply := okay } ∧
    exec (.regWr 0x01C w 0xF) s =
      .next { s with header := { s.header with height := w.setWidth 16 }, reply := okay } ∧
    exec (.regWr 0x020 w 0xF) s =
      .next { s with header := { s.header with len := w }, reply := okay } ∧
    exec (.regWr 0x024 w 0xF) s =
      .next { s with header := { s.header with seq := w }, reply := okay } ∧
    exec (.regWr 0x028 w 0xF) s =
      .next { s with header := { s.header with sec := w }, reply := okay } ∧
    exec (.regWr 0x02C w 0xF) s =
      .next { s with header := { s.header with nsec := w }, reply := okay } ∧
    ∀ off ∈ ([0x000, 0x004, 0x010, 0x030, 0x034, 0x038, 0x03C, 0x040, 0x044, 0x048, 0x04C, 0x050, 0x054,
        0x058] : List (BitVec 12)),
      exec (.regWr off w 0xF) s = .next { s with reply := okay }

/-- R26, R142: a read-write register reads back what was written to its fields and zero elsewhere, and no
other register changes. -/
def Obligations.RegisterWriteIsReadBack : Prop :=
  ∀ (s : State) (w : Word) (r : Reg) (mask : Word),
    (r, mask) ∈ ([(.ctrl, 0x00000003), (.srcFmt, 0x000000FF), (.width, 0x0000FFFF),
      (.height, 0x0000FFFF), (.srcLen, 0xFFFFFFFF), (.inSeq, 0xFFFFFFFF), (.inStampSec, 0xFFFFFFFF),
      (.inStampNsec, 0xFFFFFFFF)] : List (Reg × Word)) →
    ∃ t : State, exec (.regWr r.offset w 0xF) s = .next t ∧
      exec (.regRd r.offset) t = .next { t with reply := some (.read .okay (w &&& mask)) } ∧
      ∀ r' : Reg, r' ≠ r → t.readRegister r' = s.readRegister r'

/-! ## Buffer accesses (R143 to R146) -/

/-- R143: IBUF_RD of an aligned word inside IBUF returns its four bytes, the lowest in bits 7..0, BUSY or
IDLE; elsewhere it raises BusError. Nothing else changes. -/
def Obligations.IbufReadReturnsItsFourBytes : Prop :=
  ∀ (s : State) (off : BitVec 24),
    (off.toNat % 4 = 0 ∧ off.toNat + 4 ≤ 3 * s.pMax →
      ∃ v : Word, exec (.ibufRd off) s = .next { s with reply := some (.read .okay v) } ∧
        ∀ j, j < 4 → v.extractLsb' (8 * j) 8 = s.readByte .ibuf (off.toNat + j)) ∧
    (¬(off.toNat % 4 = 0 ∧ off.toNat + 4 ≤ 3 * s.pMax) →
      exec (.ibufRd off) s = .next { s with reply := some (.read .slverr 0) })

/-- R144: IBUF_WR of an aligned word inside IBUF while IDLE stores the enabled lanes and no other byte;
elsewhere, or while BUSY, it raises BusError. Nothing else changes. -/
def Obligations.IbufWriteStoresTheEnabledLanes : Prop :=
  ∀ (s : State) (off : BitVec 24) (w : Word) (st : Strobe),
    (off.toNat % 4 = 0 ∧ off.toNat + 4 ≤ 3 * s.pMax ∧ s.status.busy = false →
      ∃ t : State, exec (.ibufWr off w st) s = .next t ∧
        (∀ j, j < 4 → t.readByte .ibuf (off.toNat + j) =
          if st.getLsbD j then w.extractLsb' (8 * j) 8 else s.readByte .ibuf (off.toNat + j)) ∧
        (∀ a, a < off.toNat ∨ off.toNat + 4 ≤ a → t.readByte .ibuf a = s.readByte .ibuf a) ∧
        (∀ a, t.readByte .obuf a = s.readByte .obuf a) ∧
        t = { s with ibuf := t.ibuf, reply := some (.write .okay) }) ∧
    (¬(off.toNat % 4 = 0 ∧ off.toNat + 4 ≤ 3 * s.pMax ∧ s.status.busy = false) →
      exec (.ibufWr off w st) s = .next { s with reply := some (.write .slverr) })

/-- R145: OBUF_RD of an aligned word inside OBUF while IDLE returns its four bytes; elsewhere, or while
BUSY, it raises BusError. Nothing else changes. -/
def Obligations.ObufReadReturnsItsFourBytes : Prop :=
  ∀ (s : State) (off : BitVec 24),
    (off.toNat % 4 = 0 ∧ off.toNat + 4 ≤ 2 * s.pMax ∧ s.status.busy = false →
      ∃ v : Word, exec (.obufRd off) s = .next { s with reply := some (.read .okay v) } ∧
        ∀ j, j < 4 → v.extractLsb' (8 * j) 8 = s.readByte .obuf (off.toNat + j)) ∧
    (¬(off.toNat % 4 = 0 ∧ off.toNat + 4 ≤ 2 * s.pMax ∧ s.status.busy = false) →
      exec (.obufRd off) s = .next { s with reply := some (.read .slverr 0) })

/-- R146: OBUF_WR of an aligned word inside OBUF while IDLE stores the enabled lanes and no other byte;
elsewhere, or while BUSY, it raises BusError. Nothing else changes. -/
def Obligations.ObufWriteStoresTheEnabledLanes : Prop :=
  ∀ (s : State) (off : BitVec 24) (w : Word) (st : Strobe),
    (off.toNat % 4 = 0 ∧ off.toNat + 4 ≤ 2 * s.pMax ∧ s.status.busy = false →
      ∃ t : State, exec (.obufWr off w st) s = .next t ∧
        (∀ j, j < 4 → t.readByte .obuf (off.toNat + j) =
          if st.getLsbD j then w.extractLsb' (8 * j) 8 else s.readByte .obuf (off.toNat + j)) ∧
        (∀ a, a < off.toNat ∨ off.toNat + 4 ≤ a → t.readByte .obuf a = s.readByte .obuf a) ∧
        (∀ a, t.readByte .ibuf a = s.readByte .ibuf a) ∧
        t = { s with obuf := t.obuf, reply := some (.write .okay) }) ∧
    (¬(off.toNat % 4 = 0 ∧ off.toNat + 4 ≤ 2 * s.pMax ∧ s.status.busy = false) →
      exec (.obufWr off w st) s = .next { s with reply := some (.write .slverr) })

/-- R63, R68, R144, R146: a full word written to a buffer is read back by the next read of it. -/
def Obligations.AWordWrittenIsReadBack : Prop :=
  ∀ (s : State) (off : BitVec 24) (w : Word), off.toNat % 4 = 0 → s.status.busy = false →
    (off.toNat + 4 ≤ 3 * s.pMax → ∃ t, exec (.ibufWr off w 0xF) s = .next t ∧
      exec (.ibufRd off) t = .next { t with reply := some (.read .okay w) }) ∧
    (off.toNat + 4 ≤ 2 * s.pMax → ∃ t, exec (.obufWr off w 0xF) s = .next t ∧
      exec (.obufRd off) t = .next { t with reply := some (.read .okay w) })

/-! ## Steps and events (`spec/20_memory.md`, `spec/60_exceptions.md`) -/

/-- R67, R74, R84, R109, R126, R127: the step of a transaction is the decoded instruction on the state without that event;
the step of a completion is CVT, decoded from what IBUF holds, of every pixel of the job, and then the latching
of the descriptor, all in one step. -/
def Obligations.StepRunsTheDecodedInstruction : Prop :=
  (∀ (s : State) (t : Txn) (es : List Event) (i : Instr), s.inReset = false →
    s.events = .bus t :: es → decode (.bus t) = .ok i →
    step s = exec i { s with events := es }) ∧
  (∀ (s : State) (es : List Event), s.inReset = false → s.events = .complete :: es →
    s.status.busy = true → s.job.pixels ≤ s.pMax →
    (∀ px, px < s.job.pixels → decode (s.fetchPixel px) = .ok (.cvt px (s.readByte .ibuf (3 * px))
      (s.readByte .ibuf (3 * px + 1)) (s.readByte .ibuf (3 * px + 2)))) ∧
    ∃ t : State, runCvts (List.range s.job.pixels) { s with events := es } = .next t ∧
      step s = .next { t with
        out := s.job.descriptor, frameCount := s.frameCount + 1
        status := { s.status with busy := false, done := true } })

/-- R66, R83: a transaction has one of the six causes and is answered SLVERR, with data 0 for a read and
no other change, or has none and is answered OKAY. -/
def Obligations.BusErrorExactlyForItsSixCauses : Prop :=
  ∀ (s : State) (t : Txn) (es : List Event), s.inReset = false → s.events = .bus t :: es →
    (s.busErrorCause t → step s = .next { s with
      events := es, reply := some (if t.isWrite then .write .slverr else .read .slverr 0) }) ∧
    (¬s.busErrorCause t → ∃ u : State, step s = .next u ∧
      (t.isWrite = true → u.reply = some (.write .okay)) ∧
      (t.isWrite = false → ∃ v, u.reply = some (.read .okay v)))

/-- R68: a read changes no state: only its answer is new. -/
def Obligations.ReadsHaveNoSideEffects : Prop :=
  ∀ (s : State) (t : Txn) (es : List Event), s.inReset = false → s.events = .bus t :: es →
    t.isWrite = false → ∃ r : Reply, step s = .next { s with events := es, reply := some r }

/-- R150, R158: no event stops the block, in any state. -/
def Obligations.EveryStepAnswersANextState : Prop :=
  ∀ s : State, ∃ t : State, step s = .next t

/-- R59, with what it rests on: every step keeps the invariants. -/
def Obligations.StepKeepsTheInvariants : Prop :=
  ∀ s t : State, s.Inv → step s = .next t → t.Inv

/-- R59: the state after reset meets the invariants. -/
def Obligations.ResetMeetsTheInvariants : Prop := State.reset.Inv

/-- R24: only a successful START leaves IDLE, and only completion, ABORT or reset leaves BUSY. A job that
still runs at the end of the events completes then (the model's weak fairness, log entry 5). -/
def Obligations.OnlyStartLeavesIdleAndOnlyThreeEventsLeaveBusy : Prop :=
  ∀ s t : State, step s = .next t →
    (s.status.busy = false → t.status.busy = true →
      s.inReset = false ∧ (∃ es, s.events = .bus (commandTxn Command.start.word) :: es) ∧
      s.header.fmt = 0x01 ∧
      s.header.len.toNat = 3 * (s.header.width.toNat * s.header.height.toNat) ∧
      s.header.width.toNat * s.header.height.toNat ≤ s.pMax) ∧
    (s.status.busy = true → t.status.busy = false →
      (s.inReset = false ∧ (s.events = [] ∨ ∃ es, s.events = .complete :: es)) ∨
      (s.inReset = false ∧ ∃ es, s.events = .bus (commandTxn Command.abort.word) :: es) ∨
      ∃ es, s.events = .assertReset :: es)

/-- R48, R49: FRAME_COUNT counts completions and ERR_COUNT counts the STARTs that fail a check; nothing else
but reset changes either. Completion at the end of the events is the model's (log entry 5). -/
def Obligations.CountersCountCompletionsAndReports : Prop :=
  ∀ s t : State, step s = .next t →
    ((∃ es, s.events = .assertReset :: es) → t.frameCount = 0 ∧ t.errCount = 0) ∧
    ((¬∃ es, s.events = .assertReset :: es) →
      (s.inReset = false ∧ s.status.busy = true ∧ (s.events = [] ∨ ∃ es, s.events = .complete :: es) →
        t.frameCount = s.frameCount + 1) ∧
      (¬(s.inReset = false ∧ s.status.busy = true ∧
          (s.events = [] ∨ ∃ es, s.events = .complete :: es)) →
        t.frameCount = s.frameCount) ∧
      (s.inReset = false ∧ s.status.busy = false ∧
          (∃ es, s.events = .bus (commandTxn Command.start.word) :: es) ∧
          ¬(s.header.fmt = 0x01 ∧
            s.header.len.toNat = 3 * (s.header.width.toNat * s.header.height.toNat) ∧
            s.header.width.toNat * s.header.height.toNat ≤ s.pMax) →
        t.errCount = s.errCount + 1) ∧
      (¬(s.inReset = false ∧ s.status.busy = false ∧
          (∃ es, s.events = .bus (commandTxn Command.start.word) :: es) ∧
          ¬(s.header.fmt = 0x01 ∧
            s.header.len.toNat = 3 * (s.header.width.toNat * s.header.height.toNat) ∧
            s.header.width.toNat * s.header.height.toNat ≤ s.pMax)) →
        t.errCount = s.errCount))

/-- R5, R72, R120, R139: while a job runs, no step but a reset changes its snapshot or a byte of IBUF, and while
it goes on the descriptor of the last emission and every byte of OBUF stand: the engine takes no step of its
own before the completion. -/
def Obligations.JobInputsAreFixedWhileItRuns : Prop :=
  ∀ s t : State, s.status.busy = true → step s = .next t → (¬∃ es, s.events = .assertReset :: es) →
    t.job = s.job ∧ (∀ k, t.readByte .ibuf k = s.readByte .ibuf k) ∧
    (t.status.busy = true → t.out = s.out ∧ ∀ k, t.readByte .obuf k = s.readByte .obuf k)

/-- R12, R191: a job that runs has ended at the latest when the events are used up, one step more for the
completion (the model's weak fairness, log entry 5). -/
def Obligations.EveryJobEnds : Prop :=
  ∀ s : State, s.inReset = false → s.status.busy = true →
    ∃ (k : Nat) (t : State), k ≤ s.events.length + 1 ∧ Runs k s t ∧ t.status.busy = false

/-- R3, R126, R129, R130: a frame with a good header that the host starts, and neither aborts nor resets, is
emitted, whatever else happens on the port meanwhile: its dimensions are preserved, every sample is
`min(16 * round(luma), 4095)` of the pixel at its position as it stood in IBUF at the START, and it is
counted once. The number of steps rests on the model's weak fairness (log entry 5). -/
def Obligations.AStartedFrameIsEmitted : Prop :=
  ∀ (s : State) (rest : List Event), s.inReset = false → s.status.busy = false →
    s.events = .bus (commandTxn Command.start.word) :: rest →
    (∀ e ∈ rest, e ≠ .assertReset ∧ ¬e.isCommand .abort) →
    s.header.fmt = 0x01 →
    s.header.len.toNat = 3 * (s.header.width.toNat * s.header.height.toNat) →
    s.header.width.toNat * s.header.height.toNat ≤ s.pMax →
    ∃ (k : Nat) (t : State), k ≤ rest.length + 2 ∧ Runs k s t ∧
      t.status.busy = false ∧ t.status.done = true ∧ t.frameCount = s.frameCount + 1 ∧
      t.out.width = s.header.width ∧ t.out.height = s.header.height ∧
      ∀ i, i < s.header.width.toNat * s.header.height.toNat →
        ∃ y : Sample,
          y.toNat = min (16 * ((114 * (s.readByte .ibuf (3 * i)).toNat
            + 587 * (s.readByte .ibuf (3 * i + 1)).toNat
            + 299 * (s.readByte .ibuf (3 * i + 2)).toNat + 500) / 1000)) 4095 ∧
          t.readByte .obuf (2 * i) = y.extractLsb' 0 8 ∧
          t.readByte .obuf (2 * i + 1) = y.extractLsb' 8 8

/-- R128: a frame without pixels takes the normal path: BUSY, then completion, with its dimensions in the
descriptor, OUT_LEN 0, the frame counted, DONE set and no byte of OBUF changed. -/
def Obligations.AZeroAreaFrameCompletes : Prop :=
  ∀ (s : State) (es : List Event), s.inReset = false → s.status.busy = false →
    s.events = .bus (commandTxn Command.start.word) :: .complete :: es →
    s.header.fmt = 0x01 → s.header.len = 0 → (s.header.width = 0 ∨ s.header.height = 0) →
    ∃ u t : State, Runs 1 s u ∧ u.status.busy = true ∧ Runs 2 s t ∧
      t.out.width = s.header.width ∧ t.out.height = s.header.height ∧
      t.out.step.toNat = 2 * s.header.width.toNat ∧ t.out.len = 0 ∧
      t.frameCount = s.frameCount + 1 ∧
      t.status = { busy := false, done := true, err := false, cmdErr := s.status.cmdErr, errCode := 0 } ∧
      ∀ k, t.readByte .obuf k = s.readByte .obuf k

/-- R55, R164, R165: irq follows the events that raise it and those that drop it, at once, and a command
error moves it no more than a bus error does. -/
def Obligations.IrqFollowsItsRegisters : Prop :=
  ∀ s : State,
    (s.irq = true ↔ s.ctrl.irqEn = true ∧ (s.status.done = true ∨ s.status.err = true)) ∧
    (s.status.busy = true → s.complete.irq = s.ctrl.irqEn) ∧
    (∀ w : Word, ∃ t, exec (.regWr 0x008 w 0xF) s = .next t ∧
      t.irq = (w.getLsbD 0 && (s.status.done || s.status.err))) ∧
    (∃ t, exec .clear s = .next t ∧ t.irq = false) ∧
    (s.status.busy = false → ∃ t, exec .start s = .next t ∧ t.irq = (s.ctrl.irqEn && t.status.err)) ∧
    (∀ w : Word, 4 ≤ w.toNat → ∃ t, exec (.regWr 0x00C w 0xF) s = .next t ∧ t.irq = s.irq) ∧
    (s.raiseBusError true).irq = s.irq ∧ (s.raiseBusError false).irq = s.irq

/-! ## Reset (`spec/70_reset_and_hazards.md`) -/

/-- R58, R179, R180: what a reset leaves, at power-on and at a later edge with `rst_n = 0` in any state: the
block IDLE, irq 0, every register at its reset value, and, at a later reset, every buffer byte a free
draw of its own, not the earlier contents (the form of the draw is the model's, log entry 2). -/
def Obligations.ResetGivesEveryRegisterItsValue : Prop :=
  let atReset := fun s : State =>
    (∀ r : Reg, s.readRegister r =
      match r with
      | .id => 0x4C554D41
      | .version => 0x00010000
      | .ctrl => 0x00000002
      | .outFmt => 0x00000010
      | .capacity => BitVec.ofNat 32 s.pMax
      | _ => 0) ∧
    s.status.busy = false ∧ s.irq = false
  atReset State.reset ∧
  ∀ (s : State) (es : List Event), s.events = .assertReset :: es →
    ∃ t : State, step s = .next t ∧ atReset t ∧ t.pMax = s.pMax ∧ t.inReset = true ∧ t.events = es ∧
      ∀ k, t.readByte .ibuf k = Config.ibufDraw (s.epoch + 1) k ∧
        t.readByte .obuf k = Config.obufDraw (s.epoch + 1) k

/-- R178, U11: while `rst_n = 0` a transaction is answered somehow and changes nothing but the model's count
of free choices (log entry 3); the first edge with `rst_n = 1` opens the port again. -/
def Obligations.TransactionsDuringResetHaveNoEffect : Prop :=
  ∀ (s : State) (es : List Event), s.inReset = true →
    (∀ t : Txn, s.events = .bus t :: es →
      ∃ r : Reply, step s = .next { s with events := es, draws := s.draws + 1, reply := some r }) ∧
    (s.events = .releaseReset :: es → step s = .next { s with events := es, inReset := false })

/-! ## Host scripts (`spec/30_encoding.md` section 5) -/

/-- R94: HEADER and META write their registers, in IDLE and BUSY alike, and nothing else. -/
def Obligations.HeaderAndMetaScriptsFillTheHeader : Prop :=
  ∀ (s : State) (es : List Event) (fmt width height len seq sec nsec : Word), s.inReset = false →
    s.events = scriptEvents [.header fmt width height len, .metadata seq sec nsec] ++ es →
    Runs 7 s { s with
      events := es
      header := {
        fmt := fmt.setWidth 8, width := width.setWidth 16, height := height.setWidth 16, len := len
        seq := seq, sec := sec, nsec := nsec }
      reply := some (.write .okay) }

/-- R94, R65: while IDLE, BYTES stores its bytes at their offsets of a buffer that has them, and changes no
other byte. With no byte it sends nothing (the model's choice, log entry 16). -/
def Obligations.BytesScriptStoresItsBytes : Prop :=
  ∀ (s : State) (es : List Event) (sp : Space) (off : Nat) (bs : List Byte),
    s.inReset = false → s.status.busy = false → off + bs.length ≤ s.bufSize sp →
    s.events = scriptEvents [.bytes sp off bs] ++ es →
    ∃ t : State, Runs (bytesWords off bs.length) s t ∧ t.events = es ∧
      (∀ j, j < bs.length → t.readByte sp (off + j) = bs.getD j 0) ∧
      (∀ (sp' : Space) (a : Nat), ¬(sp' = sp ∧ off ≤ a ∧ a < off + bs.length) →
        t.readByte sp' a = s.readByte sp' a) ∧
      t.status = s.status ∧ t.header = s.header ∧ t.ctrl = s.ctrl ∧ t.out = s.out ∧ t.job = s.job

/-- R94, R96: a POLL reads at least once, goes on reading while no answer meets `(rdata & mask) = value`, and
ends at the first answer that does; then nothing more is sent. -/
def Obligations.PollReadsUntilItsConditionHolds : Prop :=
  ∀ (s : State) (p : Place) (mask value : Word) (gaps : List Nat),
    ∃ q : Playing, play gaps (startScript [.poll p mask value] s) = .next q ∧
      (q.rest = [] → gaps ≠ [] ∧
        (∃ (resp : Resp) (v : Word), q.state.reply = some (.read resp v) ∧ v &&& mask = value) ∧
        ∀ gap : Nat, play (gaps ++ [gap]) (startScript [.poll p mask value] s) = .next q) ∧
      (q.rest ≠ [] → q.rest = scriptActions [.poll p mask value] ∧
        (gaps ≠ [] →
          ∃ (resp : Resp) (v : Word), q.state.reply = some (.read resp v) ∧ v &&& mask ≠ value))

/-- R94, R96, R191: however often it reads first, WAITIDLE waits while the job runs and ends with the first
read after the completion, every answer OKAY. The completion comes where no event is left, by the model's
weak fairness (log entry 5). -/
def Obligations.WaitIdleEndsWithTheCompletion : Prop :=
  ∀ (s : State) (n : Nat), s.inReset = false → s.status.busy = true → s.events = [] →
    (∃ q : Playing, play (List.replicate n 0) (startScript [waitIdle] s) = .next q ∧
      q.rest = scriptActions [waitIdle] ∧ q.asExpected = true ∧ q.state.status.busy = true) ∧
    (∃ q : Playing, play (List.replicate n 0 ++ [1]) (startScript [waitIdle] s) = .next q ∧
      q.rest = [] ∧ q.asExpected = true ∧
      q.state.status.busy = false ∧ q.state.status.done = true ∧
      q.state.frameCount = s.frameCount + 1)

/-- R93, R94, R96: a script without POLL sends its transactions once each and in order, whatever they are
answered. -/
def Obligations.ScriptWithoutPollSendsEachTransactionOnce : Prop :=
  ∀ (s : State) (ls : List Line), (∀ l ∈ ls, l.isPoll = false) →
    let n := (scriptEvents ls).length
    ∃ q : Playing, play (List.replicate n 0) (startScript ls s) = .next q ∧ q.rest = [] ∧
      Runs n { s with events := scriptEvents ls ++ s.events } q.state
end

