-- ==== Sys2Proof/Laws/Decode.lean ====
section
/-! SUPPORT. The fields of a key, a pixel and a command word as numbers, so that facts about encodings
are arithmetic. -/

namespace Sys2Proof

/-- A concatenation as a number. -/
theorem toNat_append_add {m n : Nat} (x : BitVec m) (y : BitVec n) :
    (x ++ y).toNat = x.toNat * 2 ^ n + y.toNat := by
  rw [BitVec.toNat_append, ← Nat.shiftLeft_add_eq_or_of_lt y.isLt, Nat.shiftLeft_eq]

/-- A bit field as a number. -/
theorem toNat_extract_div {w : Nat} (x : BitVec w) (lo len : Nat) :
    (x.extractLsb' lo len).toNat = x.toNat / 2 ^ lo % 2 ^ len := by
  rw [BitVec.extractLsb'_toNat, Nat.shiftRight_eq_div_pow]

/-! ## The fields of a key (`spec/30_encoding.md` R83) -/

theorem Txn.region_toNat (t : Txn) : t.region.toNat = t.key.toNat / 2 ^ 24 % 4 :=
  toNat_extract_div ..

theorem Txn.page_toNat (t : Txn) : t.page.toNat = t.key.toNat / 2 ^ 12 % 4096 :=
  toNat_extract_div ..

theorem Txn.regOffset_toNat (t : Txn) : t.regOffset.toNat = t.key.toNat % 4096 := by
  rw [Txn.regOffset, toNat_extract_div]; omega

theorem Txn.bufOffset_toNat (t : Txn) : t.bufOffset.toNat = t.key.toNat % 2 ^ 24 := by
  rw [Txn.bufOffset, toNat_extract_div]; omega

theorem Txn.isWrite_iff (t : Txn) : t.isWrite = true ↔ 2 ^ 26 ≤ t.key.toNat := by
  have h := t.key.isLt
  rw [Txn.isWrite, BitVec.getLsbD, Nat.testBit_eq_decide_div_mod_eq, decide_eq_true_eq]
  omega

theorem Txn.isWrite_eq_false_iff (t : Txn) : t.isWrite = false ↔ t.key.toNat < 2 ^ 26 := by
  rw [← Bool.not_eq_true, Txn.isWrite_iff, Nat.not_le]

theorem regKey_toNat (write : Bool) (off : BitVec 12) :
    (regKey write off).toNat = (if write then 2 ^ 26 else 0) + off.toNat := by
  rw [regKey, toNat_append_add]
  cases write <;> simp

theorem bufKey_toNat (row : BitVec 3) (off : BitVec 24) :
    (bufKey row off).toNat = row.toNat * 2 ^ 24 + off.toNat :=
  toNat_append_add row off

/-- The register rows' mask keeps bits 26..12. -/
theorem key_and_pageMask (k : Key) : (k &&& 0x7FFF000).toNat = k.toNat / 4096 * 4096 := by
  have hk := k.isLt
  have h : k &&& 0x7FFF000#27 = (k >>> 12) <<< 12 := by
    ext i hi
    interval_cases i <;> simp
  rw [show (0x7FFF000 : Key) = 0x7FFF000#27 from rfl, h]
  simp [Nat.shiftLeft_eq, Nat.shiftRight_eq_div_pow]
  omega

/-- The buffer rows' mask keeps bits 26..24. -/
theorem key_and_regionMask (k : Key) : (k &&& 0x7000000).toNat = k.toNat / 16777216 * 16777216 := by
  have hk := k.isLt
  have h : k &&& 0x7000000#27 = (k >>> 24) <<< 24 := by
    ext i hi
    interval_cases i <;> simp
  rw [show (0x7000000 : Key) = 0x7000000#27 from rfl, h]
  simp [Nat.shiftLeft_eq, Nat.shiftRight_eq_div_pow]
  omega

/-! ## Pixels (R84) -/

theorem pixB_toNat (p : BitVec 24) : (pixB p).toNat = p.toNat % 256 := by
  rw [pixB, toNat_extract_div]; omega

theorem pixG_toNat (p : BitVec 24) : (pixG p).toNat = p.toNat / 256 % 256 :=
  toNat_extract_div ..

theorem pixR_toNat (p : BitVec 24) : (pixR p).toNat = p.toNat / 65536 := by
  have h := p.isLt
  rw [pixR, toNat_extract_div]; omega

theorem pix24_toNat (b g r : Byte) :
    (pix24 b g r).toNat = r.toNat * 65536 + g.toNat * 256 + b.toNat := by
  rw [pix24, toNat_append_add, toNat_append_add]; omega

theorem pixB_pix24 (b g r : Byte) : pixB (pix24 b g r) = b := by
  apply BitVec.eq_of_toNat_eq; rw [pixB_toNat, pix24_toNat]; omega

theorem pixG_pix24 (b g r : Byte) : pixG (pix24 b g r) = g := by
  apply BitVec.eq_of_toNat_eq; rw [pixG_toNat, pix24_toNat]; omega

theorem pixR_pix24 (b g r : Byte) : pixR (pix24 b g r) = r := by
  apply BitVec.eq_of_toNat_eq; rw [pixR_toNat, pix24_toNat]; omega

theorem pix24_pixels (p : BitVec 24) : pix24 (pixB p) (pixG p) (pixR p) = p := by
  have h := p.isLt
  apply BitVec.eq_of_toNat_eq; rw [pix24_toNat, pixB_toNat, pixG_toNat, pixR_toNat]; omega

/-! ## Command words (R87) -/

theorem Command.ofWord_word (c : Command) : Command.ofWord c.word = some c := by
  cases c <;> decide

theorem Command.word_of_ofWord {w : Word} {c : Command} (h : Command.ofWord w = some c) : w = c.word := by
  unfold Command.ofWord at h
  split_ifs at h with h0 h1 h2 h3 <;> cases h <;> assumption

theorem Command.ofWord_none_iff (w : Word) : Command.ofWord w = none ↔ 4 ≤ w.toNat := by
  unfold Command.ofWord
  split_ifs with h0 h1 h2 h3
  · subst h0; simp
  · subst h1; simp
  · subst h2; simp
  · subst h3; simp
  · have e : ∀ n : Nat, n < 4 → w ≠ BitVec.ofNat 32 n → w.toNat ≠ n := by
      intro n hn hw h
      exact hw (by rw [← h, BitVec.ofNat_toNat, BitVec.setWidth_eq])
    have e0 := e 0 (by omega) h0
    have e1 := e 1 (by omega) h1
    have e2 := e 2 (by omega) h2
    have e3 := e 3 (by omega) h3
    simp only [true_iff]
    omega

/-! ## Register offsets (`spec/10_state.md` section 3) -/

theorem Reg.ofOffset_offset (r : Reg) : Reg.ofOffset r.offset = some r := by
  cases r <;> decide

theorem Reg.ofIndex_none_iff (n : Nat) : Reg.ofIndex n = none ↔ 22 < n := by
  unfold Reg.ofIndex
  split <;> simp_all
  omega

/-- A register access finds a register exactly at the aligned offsets up to 0x058. -/
theorem Reg.ofOffset_none_iff (off : BitVec 12) :
    Reg.ofOffset off = none ↔ ¬(off.toNat % 4 = 0 ∧ off.toNat ≤ 0x058) := by
  unfold Reg.ofOffset
  split_ifs with h
  · rw [Reg.ofIndex_none_iff]; omega
  · simp [h]

/-- The register an offset names stands at that offset. -/
theorem Reg.offset_of_ofOffset {off : BitVec 12} {r : Reg} (h : Reg.ofOffset off = some r) :
    off = r.offset := by
  unfold Reg.ofOffset at h
  split_ifs at h with h4
  have hq : off.toNat / 4 * 4 = r.offset.toNat := by
    generalize off.toNat / 4 = n at h
    unfold Reg.ofIndex at h
    split at h <;> cases h <;> rfl
  apply BitVec.eq_of_toNat_eq
  omega

theorem Reg.ofOffset_cmd : Reg.ofOffset 0x00C = some .cmd := Reg.ofOffset_offset .cmd

end Sys2Proof
end

