-- ==== Sys2Proof/Laws/Memory.lean ====
section
/-! SUPPORT. Laws of a buffer's list: read after write, the canonical form, and equality. -/

namespace Sys2Proof.Machine

@[simp] theorem Memory.get_nil (a : Nat) : Memory.get [] a = none := rfl

theorem Memory.get_cons (k : Nat) (v : Byte) (m : Memory) (a : Nat) :
    Memory.get ((k, v) :: m) a = if k = a then some v else Memory.get m a := rfl

/-- A byte just written is read back, and no other offset changes. -/
theorem Memory.get_set (m : Memory) (a : Nat) (v : Byte) (x : Nat) :
    (m.set a v).get x = if a = x then some v else m.get x := by
  induction m with
  | nil => simp [Memory.set, Memory.get_cons]
  | cons c m ih =>
    obtain ⟨k, w⟩ := c
    by_cases hlt : a < k
    · simp [Memory.set, hlt, Memory.get_cons]
    · by_cases heq : a = k
      · subst heq
        simp only [Memory.set, Nat.lt_irrefl, if_false, if_true, Memory.get_cons]
        by_cases h : a = x <;> simp [h]
      · simp only [Memory.set, hlt, heq, if_false, Memory.get_cons, ih]
        by_cases h : k = x
        · subst h; simp [heq]
        · simp [h]

theorem Memory.get_set_same (m : Memory) (a : Nat) (v : Byte) : (m.set a v).get a = some v := by
  simp [Memory.get_set]

theorem Memory.get_set_ne (m : Memory) {a x : Nat} (v : Byte) (h : a ≠ x) :
    (m.set a v).get x = m.get x := by
  simp [Memory.get_set, h]

/-! ## The canonical form -/

theorem Memory.risingFrom_mono {lo lo' : Nat} (hle : lo' ≤ lo) {m : Memory}
    (h : Memory.risingFrom lo m = true) : Memory.risingFrom lo' m = true := by
  cases m with
  | nil => rfl
  | cons c m =>
    simp only [Memory.risingFrom, Bool.and_eq_true, decide_eq_true_eq] at h ⊢
    exact ⟨Nat.le_trans hle h.1, h.2⟩

theorem Memory.risingFrom_set {lo : Nat} {m : Memory} {a : Nat} (v : Byte)
    (h : Memory.risingFrom lo m = true) (ha : lo ≤ a) : Memory.risingFrom lo (m.set a v) = true := by
  induction m generalizing lo with
  | nil => simpa [Memory.set, Memory.risingFrom] using ha
  | cons c m ih =>
    obtain ⟨k, w⟩ := c
    simp only [Memory.risingFrom, Bool.and_eq_true, decide_eq_true_eq] at h
    by_cases hlt : a < k
    · simp only [Memory.set, hlt, if_true, Memory.risingFrom, Bool.and_eq_true, decide_eq_true_eq]
      exact ⟨ha, hlt, h.2⟩
    · by_cases heq : a = k
      · subst heq
        simp [Memory.set, Memory.risingFrom, h.1, h.2]
      · have hgt : k + 1 ≤ a := by omega
        simp only [Memory.set, hlt, heq, if_false, Memory.risingFrom, Bool.and_eq_true,
          decide_eq_true_eq]
        exact ⟨h.1, ih h.2 hgt⟩

/-- A write keeps the canonical form. -/
theorem Memory.wf_set {m : Memory} (a : Nat) (v : Byte) (h : m.wf = true) : (m.set a v).wf = true :=
  Memory.risingFrom_set v h (Nat.zero_le a)

theorem Memory.within_iff {size : Nat} {m : Memory} :
    m.within size = true ↔ ∀ c ∈ m, c.1 < size := by
  simp [Memory.within, List.all_eq_true]

theorem Memory.mem_set {m : Memory} {a : Nat} {v : Byte} {c : Host.Cell} (h : c ∈ m.set a v) :
    c = (a, v) ∨ c ∈ m := by
  induction m with
  | nil => simpa [Memory.set] using h
  | cons d m ih =>
    obtain ⟨k, w⟩ := d
    simp only [Memory.set] at h
    split_ifs at h
    · simpa using h
    · rcases List.mem_cons.mp h with h | h
      · exact .inl h
      · exact .inr (List.mem_cons_of_mem _ h)
    · rcases List.mem_cons.mp h with h | h
      · exact .inr (h ▸ List.mem_cons_self ..)
      · exact (ih h).imp id (List.mem_cons_of_mem _)

/-- A write below a size keeps the list below it. -/
theorem Memory.within_set {size : Nat} {m : Memory} {a : Nat} (v : Byte) (h : m.within size = true)
    (ha : a < size) : (m.set a v).within size = true := by
  rw [Memory.within_iff] at h ⊢
  intro c hc
  rcases Memory.mem_set hc with rfl | hc
  · exact ha
  · exact h c hc

theorem Memory.get_below {lo : Nat} {m : Memory} (h : Memory.risingFrom lo m = true) {a : Nat}
    (ha : a < lo) : m.get a = none := by
  induction m generalizing lo with
  | nil => rfl
  | cons c m ih =>
    obtain ⟨k, w⟩ := c
    simp only [Memory.risingFrom, Bool.and_eq_true, decide_eq_true_eq] at h
    rw [Memory.get_cons, if_neg (by omega)]
    exact ih h.2 (by omega)

theorem Memory.ext_risingFrom {lo lo' : Nat} {m m' : Memory} (h : Memory.risingFrom lo m = true)
    (h' : Memory.risingFrom lo' m' = true) (heq : ∀ a, m.get a = m'.get a) : m = m' := by
  induction m generalizing lo lo' m' with
  | nil =>
    cases m' with
    | nil => rfl
    | cons c' m' =>
      obtain ⟨k', w'⟩ := c'
      simpa [Memory.get_cons] using heq k'
  | cons c m ih =>
    obtain ⟨k, w⟩ := c
    cases m' with
    | nil => simpa [Memory.get_cons] using heq k
    | cons c' m' =>
      obtain ⟨k', w'⟩ := c'
      simp only [Memory.risingFrom, Bool.and_eq_true, decide_eq_true_eq] at h h'
      have hk : k = k' := by
        rcases Nat.lt_trichotomy k k' with hlt | rfl | hlt
        · have hh := heq k
          rw [Memory.get_cons, if_pos rfl, Memory.get_cons, if_neg (by omega),
            Memory.get_below h'.2 (by omega)] at hh
          cases hh
        · rfl
        · have hh := heq k'
          rw [Memory.get_cons, if_neg (by omega), Memory.get_below h.2 (by omega), Memory.get_cons,
            if_pos rfl] at hh
          cases hh
      subst hk
      have hw : w = w' := by simpa [Memory.get_cons] using heq k
      subst hw
      have htail : m = m' := by
        refine ih h.2 h'.2 fun a => ?_
        by_cases ha : a < k + 1
        · rw [Memory.get_below h.2 ha, Memory.get_below h'.2 ha]
        · have hh := heq a
          rwa [Memory.get_cons, Memory.get_cons, if_neg (by omega), if_neg (by omega)] at hh
      rw [htail]

/-- Canonical lists that read alike are one list. -/
theorem Memory.ext_of_wf {m m' : Memory} (h : m.wf = true) (h' : m'.wf = true)
    (heq : ∀ a, m.get a = m'.get a) : m = m' :=
  Memory.ext_risingFrom h h' heq

/-! ## A sample is two bytes -/

theorem Memory.get_setSample (m : Memory) (i : Nat) (y : Sample) (x : Nat) :
    (m.setSample i y).get x =
      if x / 2 = i then some (sampleByte y (x % 2 == 1)) else m.get x := by
  rw [Memory.setSample, Memory.get_set, Memory.get_set]
  by_cases h1 : 2 * i + 1 = x
  · have hd : x / 2 = i := by omega
    have hm : x % 2 = 1 := by omega
    simp [h1, hd, hm]
  · by_cases h0 : 2 * i = x
    · have hd : x / 2 = i := by omega
      have hm : x % 2 = 0 := by omega
      have hne : ¬(x + 1 = x) := by omega
      simp [h0, hd, hm]
    · have hd : ¬ x / 2 = i := by omega
      simp [h1, h0, hd]

theorem Memory.wf_setSample {m : Memory} (i : Nat) (y : Sample) (h : m.wf = true) :
    (m.setSample i y).wf = true :=
  Memory.wf_set _ _ (Memory.wf_set _ _ h)

theorem Memory.within_setSample {size : Nat} {m : Memory} {i : Nat} (y : Sample)
    (h : m.within size = true) (hi : 2 * i + 1 < size) : (m.setSample i y).within size = true :=
  Memory.within_set _ (Memory.within_set _ h (by omega)) hi

end Sys2Proof.Machine
end

