-- ==== Sys2Proof/Laws/State.lean ====
section
/-! SUPPORT. One lemma per field and update, so that no later proof unfolds a record update. -/

namespace Sys2Proof.Machine

variable (s : State)

/-! ## `answer`: The answer of the port changes the reply only. -/

@[simp] theorem State.answer_quads (r : Reply) : (s.answer r).quads = s.quads := rfl
@[simp] theorem State.answer_ctrl (r : Reply) : (s.answer r).ctrl = s.ctrl := rfl
@[simp] theorem State.answer_status (r : Reply) : (s.answer r).status = s.status := rfl
@[simp] theorem State.answer_header (r : Reply) : (s.answer r).header = s.header := rfl
@[simp] theorem State.answer_out (r : Reply) : (s.answer r).out = s.out := rfl
@[simp] theorem State.answer_frameCount (r : Reply) : (s.answer r).frameCount = s.frameCount := rfl
@[simp] theorem State.answer_errCount (r : Reply) : (s.answer r).errCount = s.errCount := rfl
@[simp] theorem State.answer_job (r : Reply) : (s.answer r).job = s.job := rfl
@[simp] theorem State.answer_ibuf (r : Reply) : (s.answer r).ibuf = s.ibuf := rfl
@[simp] theorem State.answer_obuf (r : Reply) : (s.answer r).obuf = s.obuf := rfl
@[simp] theorem State.answer_inReset (r : Reply) : (s.answer r).inReset = s.inReset := rfl
@[simp] theorem State.answer_reply (r : Reply) : (s.answer r).reply = some r := rfl
@[simp] theorem State.answer_epoch (r : Reply) : (s.answer r).epoch = s.epoch := rfl
@[simp] theorem State.answer_draws (r : Reply) : (s.answer r).draws = s.draws := rfl
@[simp] theorem State.answer_events (r : Reply) : (s.answer r).events = s.events := rfl

/-! ## `raiseDecodeError`: An error report changes STATUS and ERR_COUNT only. -/

@[simp] theorem State.raiseDecodeError_quads (e : ErrorCode) : (s.raiseDecodeError e).quads = s.quads := rfl
@[simp] theorem State.raiseDecodeError_ctrl (e : ErrorCode) : (s.raiseDecodeError e).ctrl = s.ctrl := rfl
@[simp] theorem State.raiseDecodeError_status (e : ErrorCode) : (s.raiseDecodeError e).status = s.status.setErr e := rfl
@[simp] theorem State.raiseDecodeError_header (e : ErrorCode) : (s.raiseDecodeError e).header = s.header := rfl
@[simp] theorem State.raiseDecodeError_out (e : ErrorCode) : (s.raiseDecodeError e).out = s.out := rfl
@[simp] theorem State.raiseDecodeError_frameCount (e : ErrorCode) : (s.raiseDecodeError e).frameCount = s.frameCount := rfl
@[simp] theorem State.raiseDecodeError_errCount (e : ErrorCode) : (s.raiseDecodeError e).errCount = s.errCount + 1 := rfl
@[simp] theorem State.raiseDecodeError_job (e : ErrorCode) : (s.raiseDecodeError e).job = s.job := rfl
@[simp] theorem State.raiseDecodeError_ibuf (e : ErrorCode) : (s.raiseDecodeError e).ibuf = s.ibuf := rfl
@[simp] theorem State.raiseDecodeError_obuf (e : ErrorCode) : (s.raiseDecodeError e).obuf = s.obuf := rfl
@[simp] theorem State.raiseDecodeError_inReset (e : ErrorCode) : (s.raiseDecodeError e).inReset = s.inReset := rfl
@[simp] theorem State.raiseDecodeError_reply (e : ErrorCode) : (s.raiseDecodeError e).reply = s.reply := rfl
@[simp] theorem State.raiseDecodeError_epoch (e : ErrorCode) : (s.raiseDecodeError e).epoch = s.epoch := rfl
@[simp] theorem State.raiseDecodeError_draws (e : ErrorCode) : (s.raiseDecodeError e).draws = s.draws := rfl
@[simp] theorem State.raiseDecodeError_events (e : ErrorCode) : (s.raiseDecodeError e).events = s.events := rfl

/-! ## `raiseCmdError`: A command error changes STATUS only. -/

@[simp] theorem State.raiseCmdError_quads : (s.raiseCmdError).quads = s.quads := rfl
@[simp] theorem State.raiseCmdError_ctrl : (s.raiseCmdError).ctrl = s.ctrl := rfl
@[simp] theorem State.raiseCmdError_status : (s.raiseCmdError).status = s.status.setCmdErr := rfl
@[simp] theorem State.raiseCmdError_header : (s.raiseCmdError).header = s.header := rfl
@[simp] theorem State.raiseCmdError_out : (s.raiseCmdError).out = s.out := rfl
@[simp] theorem State.raiseCmdError_frameCount : (s.raiseCmdError).frameCount = s.frameCount := rfl
@[simp] theorem State.raiseCmdError_errCount : (s.raiseCmdError).errCount = s.errCount := rfl
@[simp] theorem State.raiseCmdError_job : (s.raiseCmdError).job = s.job := rfl
@[simp] theorem State.raiseCmdError_ibuf : (s.raiseCmdError).ibuf = s.ibuf := rfl
@[simp] theorem State.raiseCmdError_obuf : (s.raiseCmdError).obuf = s.obuf := rfl
@[simp] theorem State.raiseCmdError_inReset : (s.raiseCmdError).inReset = s.inReset := rfl
@[simp] theorem State.raiseCmdError_reply : (s.raiseCmdError).reply = s.reply := rfl
@[simp] theorem State.raiseCmdError_epoch : (s.raiseCmdError).epoch = s.epoch := rfl
@[simp] theorem State.raiseCmdError_draws : (s.raiseCmdError).draws = s.draws := rfl
@[simp] theorem State.raiseCmdError_events : (s.raiseCmdError).events = s.events := rfl

/-! ## `clearResult`: Clearing the result changes STATUS only. -/

@[simp] theorem State.clearResult_quads : (s.clearResult).quads = s.quads := rfl
@[simp] theorem State.clearResult_ctrl : (s.clearResult).ctrl = s.ctrl := rfl
@[simp] theorem State.clearResult_status : (s.clearResult).status = s.status.clearResult := rfl
@[simp] theorem State.clearResult_header : (s.clearResult).header = s.header := rfl
@[simp] theorem State.clearResult_out : (s.clearResult).out = s.out := rfl
@[simp] theorem State.clearResult_frameCount : (s.clearResult).frameCount = s.frameCount := rfl
@[simp] theorem State.clearResult_errCount : (s.clearResult).errCount = s.errCount := rfl
@[simp] theorem State.clearResult_job : (s.clearResult).job = s.job := rfl
@[simp] theorem State.clearResult_ibuf : (s.clearResult).ibuf = s.ibuf := rfl
@[simp] theorem State.clearResult_obuf : (s.clearResult).obuf = s.obuf := rfl
@[simp] theorem State.clearResult_inReset : (s.clearResult).inReset = s.inReset := rfl
@[simp] theorem State.clearResult_reply : (s.clearResult).reply = s.reply := rfl
@[simp] theorem State.clearResult_epoch : (s.clearResult).epoch = s.epoch := rfl
@[simp] theorem State.clearResult_draws : (s.clearResult).draws = s.draws := rfl
@[simp] theorem State.clearResult_events : (s.clearResult).events = s.events := rfl

/-! ## `beginJob`: The beginning of a job changes STATUS and JOB only. -/

@[simp] theorem State.beginJob_quads : (s.beginJob).quads = s.quads := rfl
@[simp] theorem State.beginJob_ctrl : (s.beginJob).ctrl = s.ctrl := rfl
@[simp] theorem State.beginJob_status : (s.beginJob).status = s.status.setBusy := rfl
@[simp] theorem State.beginJob_header : (s.beginJob).header = s.header := rfl
@[simp] theorem State.beginJob_out : (s.beginJob).out = s.out := rfl
@[simp] theorem State.beginJob_frameCount : (s.beginJob).frameCount = s.frameCount := rfl
@[simp] theorem State.beginJob_errCount : (s.beginJob).errCount = s.errCount := rfl
@[simp] theorem State.beginJob_job : (s.beginJob).job = s.headerJob := rfl
@[simp] theorem State.beginJob_ibuf : (s.beginJob).ibuf = s.ibuf := rfl
@[simp] theorem State.beginJob_obuf : (s.beginJob).obuf = s.obuf := rfl
@[simp] theorem State.beginJob_inReset : (s.beginJob).inReset = s.inReset := rfl
@[simp] theorem State.beginJob_reply : (s.beginJob).reply = s.reply := rfl
@[simp] theorem State.beginJob_epoch : (s.beginJob).epoch = s.epoch := rfl
@[simp] theorem State.beginJob_draws : (s.beginJob).draws = s.draws := rfl
@[simp] theorem State.beginJob_events : (s.beginJob).events = s.events := rfl

/-! ## `runClear`: CLEAR changes STATUS only. -/

@[simp] theorem State.runClear_quads : (s.runClear).quads = s.quads := rfl
@[simp] theorem State.runClear_ctrl : (s.runClear).ctrl = s.ctrl := rfl
@[simp] theorem State.runClear_status : (s.runClear).status = s.status.clearAll := rfl
@[simp] theorem State.runClear_header : (s.runClear).header = s.header := rfl
@[simp] theorem State.runClear_out : (s.runClear).out = s.out := rfl
@[simp] theorem State.runClear_frameCount : (s.runClear).frameCount = s.frameCount := rfl
@[simp] theorem State.runClear_errCount : (s.runClear).errCount = s.errCount := rfl
@[simp] theorem State.runClear_job : (s.runClear).job = s.job := rfl
@[simp] theorem State.runClear_ibuf : (s.runClear).ibuf = s.ibuf := rfl
@[simp] theorem State.runClear_obuf : (s.runClear).obuf = s.obuf := rfl
@[simp] theorem State.runClear_inReset : (s.runClear).inReset = s.inReset := rfl
@[simp] theorem State.runClear_reply : (s.runClear).reply = s.reply := rfl
@[simp] theorem State.runClear_epoch : (s.runClear).epoch = s.epoch := rfl
@[simp] theorem State.runClear_draws : (s.runClear).draws = s.draws := rfl
@[simp] theorem State.runClear_events : (s.runClear).events = s.events := rfl

/-! ## `storeSample`: A stored sample changes OBUF only. -/

@[simp] theorem State.storeSample_quads (i : Nat) (y : Sample) : (s.storeSample i y).quads = s.quads := rfl
@[simp] theorem State.storeSample_ctrl (i : Nat) (y : Sample) : (s.storeSample i y).ctrl = s.ctrl := rfl
@[simp] theorem State.storeSample_status (i : Nat) (y : Sample) : (s.storeSample i y).status = s.status := rfl
@[simp] theorem State.storeSample_header (i : Nat) (y : Sample) : (s.storeSample i y).header = s.header := rfl
@[simp] theorem State.storeSample_out (i : Nat) (y : Sample) : (s.storeSample i y).out = s.out := rfl
@[simp] theorem State.storeSample_frameCount (i : Nat) (y : Sample) : (s.storeSample i y).frameCount = s.frameCount := rfl
@[simp] theorem State.storeSample_errCount (i : Nat) (y : Sample) : (s.storeSample i y).errCount = s.errCount := rfl
@[simp] theorem State.storeSample_job (i : Nat) (y : Sample) : (s.storeSample i y).job = s.job := rfl
@[simp] theorem State.storeSample_ibuf (i : Nat) (y : Sample) : (s.storeSample i y).ibuf = s.ibuf := rfl
@[simp] theorem State.storeSample_obuf (i : Nat) (y : Sample) : (s.storeSample i y).obuf = s.obuf.setSample i y := rfl
@[simp] theorem State.storeSample_inReset (i : Nat) (y : Sample) : (s.storeSample i y).inReset = s.inReset := rfl
@[simp] theorem State.storeSample_reply (i : Nat) (y : Sample) : (s.storeSample i y).reply = s.reply := rfl
@[simp] theorem State.storeSample_epoch (i : Nat) (y : Sample) : (s.storeSample i y).epoch = s.epoch := rfl
@[simp] theorem State.storeSample_draws (i : Nat) (y : Sample) : (s.storeSample i y).draws = s.draws := rfl
@[simp] theorem State.storeSample_events (i : Nat) (y : Sample) : (s.storeSample i y).events = s.events := rfl

/-! ## `complete`: Completion changes OBUF, the descriptor, FRAME_COUNT and STATUS only. -/

@[simp] theorem State.complete_quads : (s.complete).quads = s.quads := rfl
@[simp] theorem State.complete_ctrl : (s.complete).ctrl = s.ctrl := rfl
@[simp] theorem State.complete_status : (s.complete).status = s.status.setDone := rfl
@[simp] theorem State.complete_header : (s.complete).header = s.header := rfl
@[simp] theorem State.complete_out : (s.complete).out = s.job.descriptor := rfl
@[simp] theorem State.complete_frameCount : (s.complete).frameCount = s.frameCount + 1 := rfl
@[simp] theorem State.complete_errCount : (s.complete).errCount = s.errCount := rfl
@[simp] theorem State.complete_job : (s.complete).job = s.job := rfl
@[simp] theorem State.complete_ibuf : (s.complete).ibuf = s.ibuf := rfl
@[simp] theorem State.complete_obuf : (s.complete).obuf = s.convertedObuf s.job.pixels := rfl
@[simp] theorem State.complete_inReset : (s.complete).inReset = s.inReset := rfl
@[simp] theorem State.complete_reply : (s.complete).reply = s.reply := rfl
@[simp] theorem State.complete_epoch : (s.complete).epoch = s.epoch := rfl
@[simp] theorem State.complete_draws : (s.complete).draws = s.draws := rfl
@[simp] theorem State.complete_events : (s.complete).events = s.events := rfl

/-! ## `releaseReset`: The release of reset changes the reset level only. -/

@[simp] theorem State.releaseReset_quads : (s.releaseReset).quads = s.quads := rfl
@[simp] theorem State.releaseReset_ctrl : (s.releaseReset).ctrl = s.ctrl := rfl
@[simp] theorem State.releaseReset_status : (s.releaseReset).status = s.status := rfl
@[simp] theorem State.releaseReset_header : (s.releaseReset).header = s.header := rfl
@[simp] theorem State.releaseReset_out : (s.releaseReset).out = s.out := rfl
@[simp] theorem State.releaseReset_frameCount : (s.releaseReset).frameCount = s.frameCount := rfl
@[simp] theorem State.releaseReset_errCount : (s.releaseReset).errCount = s.errCount := rfl
@[simp] theorem State.releaseReset_job : (s.releaseReset).job = s.job := rfl
@[simp] theorem State.releaseReset_ibuf : (s.releaseReset).ibuf = s.ibuf := rfl
@[simp] theorem State.releaseReset_obuf : (s.releaseReset).obuf = s.obuf := rfl
@[simp] theorem State.releaseReset_inReset : (s.releaseReset).inReset = false := rfl
@[simp] theorem State.releaseReset_reply : (s.releaseReset).reply = s.reply := rfl
@[simp] theorem State.releaseReset_epoch : (s.releaseReset).epoch = s.epoch := rfl
@[simp] theorem State.releaseReset_draws : (s.releaseReset).draws = s.draws := rfl
@[simp] theorem State.releaseReset_events : (s.releaseReset).events = s.events := rfl

/-! ## `writeByte`: one buffer changes only. -/

@[simp] theorem State.writeByte_quads (sp : Space) (a : Nat) (v : Byte) : (s.writeByte sp a v).quads = s.quads := by cases sp <;> rfl
@[simp] theorem State.writeByte_ctrl (sp : Space) (a : Nat) (v : Byte) : (s.writeByte sp a v).ctrl = s.ctrl := by cases sp <;> rfl
@[simp] theorem State.writeByte_status (sp : Space) (a : Nat) (v : Byte) : (s.writeByte sp a v).status = s.status := by cases sp <;> rfl
@[simp] theorem State.writeByte_header (sp : Space) (a : Nat) (v : Byte) : (s.writeByte sp a v).header = s.header := by cases sp <;> rfl
@[simp] theorem State.writeByte_out (sp : Space) (a : Nat) (v : Byte) : (s.writeByte sp a v).out = s.out := by cases sp <;> rfl
@[simp] theorem State.writeByte_frameCount (sp : Space) (a : Nat) (v : Byte) : (s.writeByte sp a v).frameCount = s.frameCount := by cases sp <;> rfl
@[simp] theorem State.writeByte_errCount (sp : Space) (a : Nat) (v : Byte) : (s.writeByte sp a v).errCount = s.errCount := by cases sp <;> rfl
@[simp] theorem State.writeByte_job (sp : Space) (a : Nat) (v : Byte) : (s.writeByte sp a v).job = s.job := by cases sp <;> rfl
@[simp] theorem State.writeByte_inReset (sp : Space) (a : Nat) (v : Byte) : (s.writeByte sp a v).inReset = s.inReset := by cases sp <;> rfl
@[simp] theorem State.writeByte_reply (sp : Space) (a : Nat) (v : Byte) : (s.writeByte sp a v).reply = s.reply := by cases sp <;> rfl
@[simp] theorem State.writeByte_epoch (sp : Space) (a : Nat) (v : Byte) : (s.writeByte sp a v).epoch = s.epoch := by cases sp <;> rfl
@[simp] theorem State.writeByte_draws (sp : Space) (a : Nat) (v : Byte) : (s.writeByte sp a v).draws = s.draws := by cases sp <;> rfl
@[simp] theorem State.writeByte_events (sp : Space) (a : Nat) (v : Byte) : (s.writeByte sp a v).events = s.events := by cases sp <;> rfl
@[simp] theorem State.writeByte_ibuf_ibuf (a : Nat) (v : Byte) : (s.writeByte .ibuf a v).ibuf = s.ibuf.set a v := rfl
@[simp] theorem State.writeByte_ibuf_obuf (a : Nat) (v : Byte) : (s.writeByte .ibuf a v).obuf = s.obuf := rfl
@[simp] theorem State.writeByte_obuf_ibuf (a : Nat) (v : Byte) : (s.writeByte .obuf a v).ibuf = s.ibuf := rfl
@[simp] theorem State.writeByte_obuf_obuf (a : Nat) (v : Byte) : (s.writeByte .obuf a v).obuf = s.obuf.set a v := rfl

/-! ## `assertReset`: the reset values, in the same surroundings. -/

@[simp] theorem State.assertReset_quads : s.assertReset.quads = s.quads := rfl
@[simp] theorem State.assertReset_ctrl : s.assertReset.ctrl = (State.afterReset s.quads (s.epoch + 1) s.draws).ctrl := rfl
@[simp] theorem State.assertReset_status : s.assertReset.status = (State.afterReset s.quads (s.epoch + 1) s.draws).status := rfl
@[simp] theorem State.assertReset_header : s.assertReset.header = (State.afterReset s.quads (s.epoch + 1) s.draws).header := rfl
@[simp] theorem State.assertReset_out : s.assertReset.out = (State.afterReset s.quads (s.epoch + 1) s.draws).out := rfl
@[simp] theorem State.assertReset_frameCount : s.assertReset.frameCount = (State.afterReset s.quads (s.epoch + 1) s.draws).frameCount := rfl
@[simp] theorem State.assertReset_errCount : s.assertReset.errCount = (State.afterReset s.quads (s.epoch + 1) s.draws).errCount := rfl
@[simp] theorem State.assertReset_job : s.assertReset.job = (State.afterReset s.quads (s.epoch + 1) s.draws).job := rfl
@[simp] theorem State.assertReset_ibuf : s.assertReset.ibuf = (State.afterReset s.quads (s.epoch + 1) s.draws).ibuf := rfl
@[simp] theorem State.assertReset_obuf : s.assertReset.obuf = (State.afterReset s.quads (s.epoch + 1) s.draws).obuf := rfl
@[simp] theorem State.assertReset_inReset : s.assertReset.inReset = true := rfl
@[simp] theorem State.assertReset_reply : s.assertReset.reply = (State.afterReset s.quads (s.epoch + 1) s.draws).reply := rfl
@[simp] theorem State.assertReset_epoch : s.assertReset.epoch = s.epoch + 1 := rfl
@[simp] theorem State.assertReset_draws : s.assertReset.draws = s.draws := rfl
@[simp] theorem State.assertReset_events : s.assertReset.events = s.events := rfl

/-! ## Answers of one kind each -/

theorem State.readOkay_eq (v : Word) : s.readOkay v = s.answer (.read .okay v) := rfl
theorem State.writeOkay_eq : s.writeOkay = s.answer (.write .okay) := rfl
theorem State.raiseBusError_read : s.raiseBusError false = s.answer (.read .slverr 0) := rfl
theorem State.raiseBusError_write : s.raiseBusError true = s.answer (.write .slverr) := rfl

/-! ## STATUS, field by field -/

@[simp] theorem Status.clearResult_busy (f : Status) : (f.clearResult).busy = f.busy := rfl
@[simp] theorem Status.clearResult_done (f : Status) : (f.clearResult).done = false := rfl
@[simp] theorem Status.clearResult_err (f : Status) : (f.clearResult).err = false := rfl
@[simp] theorem Status.clearResult_cmdErr (f : Status) : (f.clearResult).cmdErr = f.cmdErr := rfl
@[simp] theorem Status.clearResult_errCode (f : Status) : (f.clearResult).errCode = 0 := rfl
@[simp] theorem Status.clearAll_busy (f : Status) : (f.clearAll).busy = f.busy := rfl
@[simp] theorem Status.clearAll_done (f : Status) : (f.clearAll).done = false := rfl
@[simp] theorem Status.clearAll_err (f : Status) : (f.clearAll).err = false := rfl
@[simp] theorem Status.clearAll_cmdErr (f : Status) : (f.clearAll).cmdErr = false := rfl
@[simp] theorem Status.clearAll_errCode (f : Status) : (f.clearAll).errCode = 0 := rfl
@[simp] theorem Status.setBusy_busy (f : Status) : (f.setBusy).busy = true := rfl
@[simp] theorem Status.setBusy_done (f : Status) : (f.setBusy).done = f.done := rfl
@[simp] theorem Status.setBusy_err (f : Status) : (f.setBusy).err = f.err := rfl
@[simp] theorem Status.setBusy_cmdErr (f : Status) : (f.setBusy).cmdErr = f.cmdErr := rfl
@[simp] theorem Status.setBusy_errCode (f : Status) : (f.setBusy).errCode = f.errCode := rfl
@[simp] theorem Status.clearBusy_busy (f : Status) : (f.clearBusy).busy = false := rfl
@[simp] theorem Status.clearBusy_done (f : Status) : (f.clearBusy).done = f.done := rfl
@[simp] theorem Status.clearBusy_err (f : Status) : (f.clearBusy).err = f.err := rfl
@[simp] theorem Status.clearBusy_cmdErr (f : Status) : (f.clearBusy).cmdErr = f.cmdErr := rfl
@[simp] theorem Status.clearBusy_errCode (f : Status) : (f.clearBusy).errCode = f.errCode := rfl
@[simp] theorem Status.setDone_busy (f : Status) : (f.setDone).busy = false := rfl
@[simp] theorem Status.setDone_done (f : Status) : (f.setDone).done = true := rfl
@[simp] theorem Status.setDone_err (f : Status) : (f.setDone).err = f.err := rfl
@[simp] theorem Status.setDone_cmdErr (f : Status) : (f.setDone).cmdErr = f.cmdErr := rfl
@[simp] theorem Status.setDone_errCode (f : Status) : (f.setDone).errCode = f.errCode := rfl
@[simp] theorem Status.setErr_busy (f : Status) (e : ErrorCode) : (f.setErr e).busy = f.busy := rfl
@[simp] theorem Status.setErr_done (f : Status) (e : ErrorCode) : (f.setErr e).done = f.done := rfl
@[simp] theorem Status.setErr_err (f : Status) (e : ErrorCode) : (f.setErr e).err = true := rfl
@[simp] theorem Status.setErr_cmdErr (f : Status) (e : ErrorCode) : (f.setErr e).cmdErr = f.cmdErr := rfl
@[simp] theorem Status.setErr_errCode (f : Status) (e : ErrorCode) : (f.setErr e).errCode = errorValue e := rfl
@[simp] theorem Status.setCmdErr_busy (f : Status) : (f.setCmdErr).busy = f.busy := rfl
@[simp] theorem Status.setCmdErr_done (f : Status) : (f.setCmdErr).done = f.done := rfl
@[simp] theorem Status.setCmdErr_err (f : Status) : (f.setCmdErr).err = f.err := rfl
@[simp] theorem Status.setCmdErr_cmdErr (f : Status) : (f.setCmdErr).cmdErr = true := rfl
@[simp] theorem Status.setCmdErr_errCode (f : Status) : (f.setCmdErr).errCode = f.errCode := rfl

end Sys2Proof.Machine
end

