-- ==== Sys2Proof/Laws/Ops.lean ====
section
/-! SUPPORT. What each shared operation over the buffers can do, said once. -/

namespace Sys2Proof.Machine

/-! ## P_MAX and the sizes (`spec/00_scope.md` R8, R9) -/

theorem State.pMax_legal (s : State) : 4 ≤ s.pMax ∧ s.pMax % 4 = 0 ∧ s.pMax ≤ 5592404 := by
  have h := s.quads.isLt
  unfold State.pMax
  omega

@[simp] theorem State.bufSize_ibuf (s : State) : s.bufSize .ibuf = 3 * s.pMax := rfl
@[simp] theorem State.bufSize_obuf (s : State) : s.bufSize .obuf = 2 * s.pMax := rfl

/-- P_MAX depends on `quads` alone. -/
theorem State.pMax_congr {s t : State} (h : t.quads = s.quads) : t.pMax = s.pMax := by
  simp [State.pMax, h]

theorem State.bufSize_congr {s t : State} (h : t.quads = s.quads) (sp : Space) :
    t.bufSize sp = s.bufSize sp := by
  cases sp <;> simp [State.pMax, h]

theorem State.wordInside_iff (s : State) (sp : Space) (off : BitVec 24) :
    s.wordInside sp off = true ↔ off.toNat % 4 = 0 ∧ off.toNat + 4 ≤ s.bufSize sp := by
  simp [State.wordInside]

/-! ## Reading and writing bytes -/

theorem State.readByte_ibuf (s : State) (a : Nat) :
    s.readByte .ibuf a = (s.ibuf.get a).getD (Config.ibufDraw s.epoch a) := rfl

theorem State.readByte_obuf (s : State) (a : Nat) :
    s.readByte .obuf a = (s.obuf.get a).getD (Config.obufDraw s.epoch a) := rfl

/-- A byte read depends on its buffer and on the number of the reset. -/
theorem State.readByte_congr {s t : State} (hi : t.ibuf = s.ibuf) (ho : t.obuf = s.obuf)
    (he : t.epoch = s.epoch) (sp : Space) (a : Nat) : t.readByte sp a = s.readByte sp a := by
  cases sp <;> simp [State.readByte, hi, ho, he]

@[simp] theorem State.readByte_answer (s : State) (r : Reply) (sp : Space) (a : Nat) :
    (s.answer r).readByte sp a = s.readByte sp a := by
  cases sp <;> rfl

/-- A byte written is read back; every other byte of both buffers reads as before. -/
theorem State.readByte_writeByte (s : State) (sp : Space) (a : Nat) (v : Byte) (sp' : Space) (x : Nat) :
    (s.writeByte sp a v).readByte sp' x = if sp = sp' ∧ a = x then v else s.readByte sp' x := by
  cases sp <;> cases sp' <;> simp [State.readByte, Memory.get_set] <;> split_ifs <;> simp

theorem State.readByte_writeLane (s : State) (sp : Space) (off : Nat) (w : Word) (st : Strobe) (j : Nat)
    (sp' : Space) (x : Nat) :
    (s.writeLane sp off w st j).readByte sp' x =
      if st.getLsbD j = true ∧ sp = sp' ∧ off + j = x then laneByte w j else s.readByte sp' x := by
  unfold State.writeLane
  by_cases h : st.getLsbD j = true <;> simp [h, State.readByte_writeByte]

/-- A word write stores lane `j` exactly where strobe bit `j` is 1 and leaves every other byte of both
buffers as it was (`spec/20_memory.md` R65). -/
theorem State.readByte_writeWord (s : State) (sp : Space) (off : Nat) (w : Word) (st : Strobe)
    (sp' : Space) (x : Nat) :
    (s.writeWord sp off w st).readByte sp' x =
      if sp = sp' ∧ off ≤ x ∧ x < off + 4 ∧ st.getLsbD (x - off) = true then laneByte w (x - off)
      else s.readByte sp' x := by
  simp only [State.writeWord, State.readByte_writeLane]
  by_cases hsp : sp = sp'
  · subst hsp
    by_cases h0 : x = off
    · subst h0; simp
    by_cases h1 : x = off + 1
    · subst h1; simp
    by_cases h2 : x = off + 2
    · subst h2; simp
    by_cases h3 : x = off + 3
    · subst h3; simp
    · have hn : ¬(off ≤ x ∧ x < off + 4) := by omega
      rw [if_neg (by omega), if_neg (by omega), if_neg (by omega), if_neg (by omega),
        if_neg (fun h => hn ⟨h.2.1, h.2.2.1⟩)]
  · simp [hsp]

/-- A lane write changes one buffer's list only. -/
theorem State.writeLane_cases (s : State) (sp : Space) (off : Nat) (w : Word) (st : Strobe) (j : Nat) :
    s.writeLane sp off w st j = s ∨
      s.writeLane sp off w st j = s.writeByte sp (off + j) (laneByte w j) := by
  unfold State.writeLane
  split_ifs
  · exact .inr rfl
  · exact .inl rfl

/-- A word write changes nothing but the buffer it goes to. -/
theorem State.writeWord_frame (s : State) (sp : Space) (off : Nat) (w : Word) (st : Strobe) :
    ∃ m, s.writeWord sp off w st =
      (match sp with
        | .ibuf => { s with ibuf := m }
        | .obuf => { s with obuf := m }) := by
  cases sp <;> simp only [State.writeWord, State.writeLane, State.writeByte] <;> split_ifs <;>
    exact ⟨_, rfl⟩

/-- A buffer's list is canonical and lies within its size. -/
def State.bufOk (s : State) : Space → Prop
  | .ibuf => s.ibuf.wf = true ∧ s.ibuf.within (s.bufSize .ibuf) = true
  | .obuf => s.obuf.wf = true ∧ s.obuf.within (s.bufSize .obuf) = true

theorem State.bufOk_writeByte {s : State} (sp : Space) {a : Nat} (v : Byte) (sp' : Space)
    (h : s.bufOk sp') (ha : a < s.bufSize sp) : (s.writeByte sp a v).bufOk sp' := by
  cases sp <;> cases sp' <;>
    first
    | exact h
    | exact ⟨Memory.wf_set _ _ h.1, Memory.within_set _ h.2 ha⟩

/-- A word write inside a buffer keeps both lists canonical and within their sizes. -/
theorem State.bufOk_writeWord {s : State} (sp : Space) {off : Nat} (w : Word) (st : Strobe)
    (sp' : Space) (h : s.bufOk sp') (ho : off + 4 ≤ s.bufSize sp) :
    (s.writeWord sp off w st).bufOk sp' := by
  have lane : ∀ (u : State) (j : Nat), u.quads = s.quads → u.bufOk sp' → j < 4 →
      (u.writeLane sp off w st j).bufOk sp' ∧ (u.writeLane sp off w st j).quads = s.quads := by
    intro u j hq hu hj
    have hs := State.bufSize_congr hq sp
    rcases u.writeLane_cases sp off w st j with he | he <;> rw [he]
    · exact ⟨hu, hq⟩
    · exact ⟨State.bufOk_writeByte sp _ sp' hu (by omega), by simpa using hq⟩
  obtain ⟨h0, q0⟩ := lane s 0 rfl h (by omega)
  obtain ⟨h1, q1⟩ := lane _ 1 q0 h0 (by omega)
  obtain ⟨h2, q2⟩ := lane _ 2 q1 h1 (by omega)
  exact (lane _ 3 q2 h2 (by omega)).1

/-! ## The pixels of a job -/

theorem State.pixelSample_congr {s t : State} (h : ∀ a, t.readByte .ibuf a = s.readByte .ibuf a)
    (i : Nat) : t.pixelSample i = s.pixelSample i := by
  simp [State.pixelSample, h]

theorem State.jobByte_congr {s t : State} (h : ∀ a, t.readByte .ibuf a = s.readByte .ibuf a)
    (k : Nat) : t.jobByte k = s.jobByte k := by
  simp [State.jobByte, State.pixelSample_congr h]

/-- What CVT of the first `n` pixels leaves at each offset of OBUF. -/
theorem State.convertedObuf_get (s : State) (n k : Nat) :
    (s.convertedObuf n).get k = if k < 2 * n then some (s.jobByte k) else s.obuf.get k := by
  induction n with
  | zero => simp [State.convertedObuf]
  | succ n ih =>
    rw [State.convertedObuf, Memory.get_setSample, ih]
    by_cases h : k / 2 = n
    · subst h
      rw [if_pos rfl, if_pos (by omega)]
      rfl
    · rw [if_neg h]
      by_cases hk : k < 2 * n
      · rw [if_pos hk, if_pos (by omega)]
      · rw [if_neg hk, if_neg (by omega)]

theorem State.convertedObuf_wf {s : State} (h : s.obuf.wf = true) (n : Nat) :
    (s.convertedObuf n).wf = true := by
  induction n with
  | zero => exact h
  | succ n ih => exact Memory.wf_setSample _ _ ih

theorem State.convertedObuf_within {s : State} {size : Nat} (h : s.obuf.within size = true) {n : Nat}
    (hn : 2 * n ≤ size) : (s.convertedObuf n).within size = true := by
  induction n with
  | zero => exact h
  | succ n ih => exact Memory.within_setSample _ (ih (by omega)) (by omega)

/-- What an ABORT leaves at each offset of OBUF: below `n` the new or the old byte. -/
theorem State.abortedObuf_get (s : State) (n k : Nat) :
    (s.abortedObuf n).get k =
      if k < n then some (if Config.abortTakesNew s.draws k then s.jobByte k else s.readByte .obuf k)
      else s.obuf.get k := by
  induction n with
  | zero => simp [State.abortedObuf]
  | succ n ih =>
    rw [State.abortedObuf, Memory.get_set, ih]
    by_cases h : n = k
    · subst h; simp
    · rw [if_neg h]
      by_cases hk : k < n
      · have hk' : k < n + 1 := by omega
        simp only [hk, hk', if_true]
      · rw [if_neg hk, if_neg (by omega)]

theorem State.abortedObuf_wf {s : State} (h : s.obuf.wf = true) (n : Nat) :
    (s.abortedObuf n).wf = true := by
  induction n with
  | zero => exact h
  | succ n ih => exact Memory.wf_set _ _ ih

theorem State.abortedObuf_within {s : State} {size : Nat} (h : s.obuf.within size = true) {n : Nat}
    (hn : n ≤ size) : (s.abortedObuf n).within size = true := by
  induction n with
  | zero => exact h
  | succ n ih => exact Memory.within_set _ (ih (by omega)) (by omega)

end Sys2Proof.Machine
end

