-- ==== Sys2Proof/Laws/Step.lean ====
section
/-! SUPPORT. What a transaction, CVT of a pixel, a completion and one event can do, said once. -/

namespace Sys2Proof.Machine

/-! ## Decoding by the key's value (`spec/30_encoding.md` R83) -/

/-- The bus decoder as tests on the key's value. -/
theorem decode_bus_eq (t : Txn) :
    decode (.bus t) =
      if t.key.toNat / 2 ^ 24 % 4 = 0 then
        if t.key.toNat / 2 ^ 12 % 4096 = 0 then
          if 2 ^ 26 ≤ t.key.toNat then .ok (decodeRegWrite t.regOffset t.wdata t.wstrb)
          else .ok (.regRd t.regOffset)
        else .reject .unmappedPage
      else if t.key.toNat / 2 ^ 24 % 4 = 1 then
        if 2 ^ 26 ≤ t.key.toNat then .ok (.ibufWr t.bufOffset t.wdata t.wstrb)
        else .ok (.ibufRd t.bufOffset)
      else if t.key.toNat / 2 ^ 24 % 4 = 2 then
        if 2 ^ 26 ≤ t.key.toNat then .ok (.obufWr t.bufOffset t.wdata t.wstrb)
        else .ok (.obufRd t.bufOffset)
      else .reject .unmappedRegion := by
  simp only [decode, decodeTxn, ← BitVec.toNat_inj, Txn.region_toNat, Txn.page_toNat, Txn.isWrite_iff]
  rfl

/-- A register write decodes to a command or to the register write itself. -/
theorem decodeRegWrite_cases (off : BitVec 12) (w : Word) (st : Strobe) :
    (∃ c : Command, decodeRegWrite off w st = c.instr ∧ off = cmdOffset ∧ w = c.word ∧ st = 0xF) ∨
      (decodeRegWrite off w st = .regWr off w st ∧
        (off = cmdOffset → st = 0xF → Command.ofWord w = none)) := by
  unfold decodeRegWrite
  split_ifs with h
  · cases hw : Command.ofWord w with
    | none => exact .inr ⟨rfl, fun _ _ => rfl⟩
    | some c => exact .inl ⟨c, rfl, h.1, Command.word_of_ofWord hw, h.2⟩
  · exact .inr ⟨rfl, fun h1 h2 => absurd ⟨h1, h2⟩ h⟩

/-- A register write has the effect of REG_WR, decoded as a command or not
(`spec/10_state.md` R31). -/
theorem exec_decodeRegWrite (off : BitVec 12) (w : Word) (st : Strobe) (s : State) :
    exec (decodeRegWrite off w st) s = exec (.regWr off w st) s := by
  rcases decodeRegWrite_cases off w st with ⟨c, h, rfl, rfl, rfl⟩ | ⟨h, -⟩ <;> rw [h]
  cases c <;> rfl

/-- CVT is no bus operation. -/
theorem decode_bus_ne_cvt {t : Txn} {i : Instr} (h : decode (.bus t) = .ok i) (px : Nat) (b g r : Byte) :
    i ≠ .cvt px b g r := by
  rintro rfl
  rw [decode_bus_eq] at h
  split_ifs at h <;> simp only [Decoded.ok.injEq, reduceCtorEq] at h
  rcases decodeRegWrite_cases t.regOffset t.wdata t.wstrb with ⟨c, hc, -⟩ | ⟨hc, -⟩ <;> rw [hc] at h
  · cases c <;> cases h
  · cases h

/-! ## Execution -/

/-- Every operation but CVT answers a next state, in every state (`spec/60_exceptions.md` R158). -/
theorem exec_next_of_ne_cvt {i : Instr} (s : State) (h : ∀ px b g r, i ≠ .cvt px b g r) :
    ∃ t, exec i s = .next t := by
  cases i with
  | regRd off => simp only [exec, execRegRd]; split <;> exact ⟨_, rfl⟩
  | regWr off w st => simp only [exec, execRegWr]; split <;> [skip; split_ifs] <;> exact ⟨_, rfl⟩
  | ibufRd _ | ibufWr _ _ _ | obufRd _ | obufWr _ _ _ => exact ⟨_, rfl⟩
  | nop | start | clear | abort => exact ⟨_, rfl⟩
  | cvt px b g r => exact absurd rfl (h px b g r)

/-- CVT of a pixel of the running job (`spec/41_rescale.md` R109). -/
theorem exec_cvt_of_pixel {s : State} {px : Nat} (b g r : Byte) (hb : s.status.busy = true)
    (hj : px < s.job.pixels) (hp : px < s.pMax) :
    exec (.cvt px b g r) s = .next (s.storeSample px (sampleOf b g r)) := by
  simp [exec, execCvt, hb, hj, hp]

/-- What the engine fetches decodes to CVT of the channels in IBUF (`spec/30_encoding.md` R84). -/
theorem decode_fetchPixel (s : State) {px : Nat} (h : px < maxPixels) :
    decode (s.fetchPixel px) =
      .ok (.cvt px (s.readByte .ibuf (3 * px)) (s.readByte .ibuf (3 * px + 1))
        (s.readByte .ibuf (3 * px + 2))) := by
  simp [State.fetchPixel, decode, h, pixB_pix24, pixG_pix24, pixR_pix24]

/-- START's checks all pass (`spec/42_frame.md` R118). -/
theorem State.headerError_none_iff (s : State) :
    s.headerError = none ↔ s.header.fmt = 0x01 ∧
      s.header.len.toNat = 3 * (s.header.width.toNat * s.header.height.toNat) ∧
      s.header.width.toNat * s.header.height.toNat ≤ s.pMax := by
  unfold State.headerError
  dsimp only
  split_ifs <;> simp_all

/-- START reports FORMAT, LENGTH or CAPACITY and no other code (R118, `spec/60_exceptions.md` R161). -/
theorem State.headerError_cases {s : State} {e : ErrorCode} (h : s.headerError = some e) :
    e = .format ∨ e = .length ∨ e = .capacity := by
  unfold State.headerError at h
  dsimp only at h
  split_ifs at h <;> simp_all

/-! ## What a transaction that is no command can do -/

/-- What every transaction but a command leaves alone: the job, the last emission, the counters, and while
BUSY both buffers; of STATUS it can set CMD_ERR only (`spec/43_bus_access.md` R147). -/
structure Undisturbed (s u : State) : Prop where
  job : u.job = s.job
  out : u.out = s.out
  frameCount : u.frameCount = s.frameCount
  errCount : u.errCount = s.errCount
  quads : u.quads = s.quads
  epoch : u.epoch = s.epoch
  inReset : u.inReset = s.inReset
  events : u.events = s.events
  status : u.status = s.status ∨ u.status = s.status.setCmdErr
  buffers : s.status.busy = true → u.ibuf = s.ibuf ∧ u.obuf = s.obuf

theorem Undisturbed.refl (s : State) : Undisturbed s s :=
  ⟨rfl, rfl, rfl, rfl, rfl, rfl, rfl, rfl, .inl rfl, fun _ => ⟨rfl, rfl⟩⟩

theorem Undisturbed.answer {s u : State} (h : Undisturbed s u) (r : Reply) : Undisturbed s (u.answer r) :=
  ⟨h.job, h.out, h.frameCount, h.errCount, h.quads, h.epoch, h.inReset, h.events, h.status, h.buffers⟩

theorem Undisturbed.writeWord (s : State) (sp : Space) (off : Nat) (w : Word) (st : Strobe)
    (h : s.status.busy = false) : Undisturbed s (s.writeWord sp off w st) := by
  obtain ⟨m, hm⟩ := s.writeWord_frame sp off w st
  rw [hm]
  cases sp <;>
    exact ⟨rfl, rfl, rfl, rfl, rfl, rfl, rfl, rfl, .inl rfl, fun hb => by simp [h] at hb⟩

theorem Undisturbed.storeRegister (s : State) (w : Word) (r : Reg)
    (h : r = .cmd → Command.ofWord w = none) : Undisturbed s (s.storeRegister w r) := by
  cases r
  case cmd =>
    simp only [State.storeRegister, State.runCommandWord, h rfl]
    exact ⟨rfl, rfl, rfl, rfl, rfl, rfl, rfl, rfl, .inr rfl, fun _ => ⟨rfl, rfl⟩⟩
  all_goals exact ⟨rfl, rfl, rfl, rfl, rfl, rfl, rfl, rfl, .inl rfl, fun _ => ⟨rfl, rfl⟩⟩

/-- A transaction is a command's, or leaves the job and its results alone. -/
theorem runTxn_cases (t : Txn) (s : State) :
    (∃ c : Command, t = commandTxn c.word ∧ runTxn t s = exec c.instr s) ∨
      ∃ u, runTxn t s = .next u ∧ Undisturbed s u := by
  unfold runTxn
  rw [decode_bus_eq]
  have hk := t.key.isLt
  split_ifs with h1 h2 h3
  · dsimp only
    rcases decodeRegWrite_cases t.regOffset t.wdata t.wstrb with ⟨c, hc, ho, hw, hs⟩ | ⟨hc, hn⟩
    · refine .inl ⟨c, ?_, by rw [hc]⟩
      obtain ⟨k, w, st⟩ := t
      subst hw hs
      have hr := Txn.regOffset_toNat ⟨k, c.word, 0xF⟩
      rw [ho] at hr
      rw [commandTxn, Txn.mk.injEq]
      refine ⟨BitVec.eq_of_toNat_eq ?_, rfl, rfl⟩
      rw [regKey_toNat]
      dsimp only [cmdOffset] at h1 h2 h3 hr hk ⊢
      simp at hr ⊢
      omega
    · right
      rw [hc]
      simp only [exec, execRegWr]
      split
      · exact ⟨_, rfl, (Undisturbed.refl s).answer _⟩
      · next r hr =>
        split_ifs with hst
        · refine ⟨_, rfl, (Undisturbed.storeRegister s _ r fun h => hn ?_ hst).answer _⟩
          subst h
          exact Reg.offset_of_ofOffset hr
        · exact ⟨_, rfl, (Undisturbed.refl s).answer _⟩
  all_goals
    right
    dsimp only
    try simp only [exec, execRegRd, execIbufRd, execObufRd, execIbufWr, execObufWr]
    try split
  all_goals
    first
    | exact ⟨_, rfl, (Undisturbed.refl s).answer _⟩
    | next h =>
      rw [Bool.and_eq_true, Bool.not_eq_true'] at h
      exact ⟨_, rfl, (Undisturbed.writeWord s _ _ _ _ h.2).answer _⟩

/-- One step on a completion at the head of the events (`spec/42_frame.md` R127). -/
theorem step_of_complete {s : State} {es : List Event} (hr : s.inReset = false)
    (he : s.events = .complete :: es) : step s = .next { s with events := es }.completeIfBusy := by
  simp [step, nextStep, he, runEvent, hr]

/-- One step on a transaction at the head of the events. -/
theorem step_of_bus {s : State} {t : Txn} {es : List Event} (hr : s.inReset = false)
    (he : s.events = .bus t :: es) : step s = runTxn t { s with events := es } := by
  simp [step, nextStep, he, runEvent, hr]

end Sys2Proof.Machine
end

