-- ==== Sys2Proof/Laws/Events.lean ====
section
/-! SUPPORT. A transaction neither reads nor changes the events still to come (`spec/20_memory.md` R67): what
it does is the same in front of any others. -/

namespace Sys2Proof.Machine

/-- The state with other events to come. -/
def State.withEvents (s : State) (es : List Event) : State := { s with events := es }

/-- An outcome with other events to come. -/
def outcomeWithEvents (es : List Event) :
    Host.Outcome State Fault Refusal → Host.Outcome State Fault Refusal
  | .next t => .next (t.withEvents es)
  | .fault r => .fault r
  | .refused r => .refused r

variable (s : State) (es : List Event)

theorem State.withEvents_abortedObuf (k : Nat) : (s.withEvents es).abortedObuf k = s.abortedObuf k := by
  induction k with
  | zero => rfl
  | succ k ih => simp only [State.abortedObuf, ih]; rfl

theorem State.withEvents_writeLane (sp : Space) (off : Nat) (w : Word) (st : Strobe) (j : Nat) :
    (s.withEvents es).writeLane sp off w st j = (s.writeLane sp off w st j).withEvents es := by
  unfold State.writeLane
  split_ifs
  · cases sp <;> rfl
  · rfl

theorem State.withEvents_writeWord (sp : Space) (off : Nat) (w : Word) (st : Strobe) :
    (s.withEvents es).writeWord sp off w st = (s.writeWord sp off w st).withEvents es := by
  simp only [State.writeWord, State.withEvents_writeLane]

theorem State.withEvents_runStart : (s.withEvents es).runStart = s.runStart.withEvents es := by
  have hc : (s.withEvents es).headerError = s.headerError := rfl
  by_cases hb : s.status.busy = true
  · rw [State.runStart, State.runStart, if_pos hb, if_pos (by exact hb)]; rfl
  · rw [State.runStart, State.runStart, if_neg hb, if_neg (by exact hb), hc]
    split <;> rfl

theorem State.withEvents_runAbort : (s.withEvents es).runAbort = s.runAbort.withEvents es := by
  by_cases hb : s.status.busy = true
  · rw [State.runAbort, State.runAbort, if_pos hb, if_pos (by exact hb), State.withEvents_abortedObuf]; rfl
  · rw [State.runAbort, State.runAbort, if_neg hb, if_neg (by exact hb)]

theorem State.withEvents_storeRegister (w : Word) (r : Reg) :
    (s.withEvents es).storeRegister w r = (s.storeRegister w r).withEvents es := by
  cases r
  case cmd =>
    simp only [State.storeRegister, State.runCommandWord]
    split <;> first | rfl | exact s.withEvents_runStart es | exact s.withEvents_runAbort es
  all_goals rfl

/-- No operation reads or changes the events to come. -/
theorem exec_withEvents (i : Instr) : exec i (s.withEvents es) = outcomeWithEvents es (exec i s) := by
  have hi : ∀ sp off, (s.withEvents es).wordInside sp off = s.wordInside sp off := fun _ _ => rfl
  have hs : (s.withEvents es).status = s.status := rfl
  have hj : (s.withEvents es).job = s.job := rfl
  have hp : (s.withEvents es).pMax = s.pMax := rfl
  cases i with
  | nop | clear => rfl
  | start => simp only [exec, execStart, State.withEvents_runStart]; rfl
  | abort => simp only [exec, execAbort, State.withEvents_runAbort]; rfl
  | regRd off => simp only [exec, execRegRd]; split <;> rfl
  | regWr off w st =>
    simp only [exec, execRegWr, State.withEvents_storeRegister]
    split
    · rfl
    · split_ifs <;> rfl
  | ibufRd off | obufRd off => simp only [exec, execIbufRd, execObufRd, hi, hs]; split_ifs <;> rfl
  | ibufWr off w st | obufWr off w st =>
    simp only [exec, execIbufWr, execObufWr, hi, hs, State.withEvents_writeWord]
    split_ifs <;> rfl
  | cvt px b g r => simp only [exec, execCvt, hs, hj, hp]; split_ifs <;> rfl

/-- One step on a transaction at the head of the events, in front of any others. -/
theorem step_bus_withEvents (t : Txn) :
    step (s.withEvents (.bus t :: es)) = outcomeWithEvents es (runEvent (.bus t) s) := by
  have h : step (s.withEvents (.bus t :: es)) = runEvent (.bus t) (s.withEvents es) := rfl
  have hr : (s.withEvents es).inReset = s.inReset := rfl
  rw [h]
  simp only [runEvent, hr, runTxn]
  split_ifs
  · rfl
  · split
    · exact exec_withEvents s es _
    · rfl

end Sys2Proof.Machine
end

