-- ==== Sys2Proof/Laws/PerInstr.lean ====
section
/-! SUPPORT. Statements about every instruction, one lemma per constructor. -/

namespace Sys2Proof.Laws.EncodeMatchesRow

/-- The coded form of an instruction matches the row of its operation: a bus operation's or a command's
key has the row's fixed bits (`spec/30_encoding.md` R83, R87), and a pixel's form holds its index and
channels (R84). -/
def Statement (i : Instr) : Prop :=
  match encode i with
  | .bus t => ∃ row ∈ keyRows, i.busOp = some row.op ∧ t.key &&& row.mask = row.pattern
  | .pixel index p => i = .cvt index (pixB p) (pixG p) (pixR p)

theorem regKey_match (write : Bool) (off : BitVec 12) :
    regKey write off &&& 0x7FFF000 = if write then 0x4000000 else 0x0000000 := by
  have h := off.isLt
  apply BitVec.eq_of_toNat_eq
  rw [key_and_pageMask, regKey_toNat]
  cases write <;> simp <;> omega

theorem bufKey_match (row : BitVec 3) (off : BitVec 24) :
    bufKey row off &&& 0x7000000 = row ++ 0#24 := by
  have h := off.isLt
  apply BitVec.eq_of_toNat_eq
  rw [key_and_regionMask, bufKey_toNat, toNat_append_add]
  simp
  omega

theorem regRd (off : BitVec 12) : Statement (.regRd off) :=
  ⟨⟨.regRd, 0x0000000, 0x7FFF000⟩, by decide, rfl, regKey_match false off⟩

theorem regWr (off : BitVec 12) (wdata : Word) (wstrb : Strobe) : Statement (.regWr off wdata wstrb) :=
  ⟨⟨.regWr, 0x4000000, 0x7FFF000⟩, by decide, rfl, regKey_match true off⟩

theorem ibufRd (off : BitVec 24) : Statement (.ibufRd off) :=
  ⟨⟨.ibufRd, 0x1000000, 0x7000000⟩, by decide, rfl, bufKey_match 0b001 off⟩

theorem ibufWr (off : BitVec 24) (wdata : Word) (wstrb : Strobe) : Statement (.ibufWr off wdata wstrb) :=
  ⟨⟨.ibufWr, 0x5000000, 0x7000000⟩, by decide, rfl, bufKey_match 0b101 off⟩

theorem obufRd (off : BitVec 24) : Statement (.obufRd off) :=
  ⟨⟨.obufRd, 0x2000000, 0x7000000⟩, by decide, rfl, bufKey_match 0b010 off⟩

theorem obufWr (off : BitVec 24) (wdata : Word) (wstrb : Strobe) : Statement (.obufWr off wdata wstrb) :=
  ⟨⟨.obufWr, 0x6000000, 0x7000000⟩, by decide, rfl, bufKey_match 0b110 off⟩

theorem nop : Statement .nop :=
  ⟨⟨.regWr, 0x4000000, 0x7FFF000⟩, by decide, rfl, regKey_match true cmdOffset⟩

theorem start : Statement .start :=
  ⟨⟨.regWr, 0x4000000, 0x7FFF000⟩, by decide, rfl, regKey_match true cmdOffset⟩

theorem clear : Statement .clear :=
  ⟨⟨.regWr, 0x4000000, 0x7FFF000⟩, by decide, rfl, regKey_match true cmdOffset⟩

theorem abort : Statement .abort :=
  ⟨⟨.regWr, 0x4000000, 0x7FFF000⟩, by decide, rfl, regKey_match true cmdOffset⟩

theorem cvt (index : Nat) (b g r : Byte) : Statement (.cvt index b g r) := by
  simp [Statement, encode, pixB_pix24, pixG_pix24, pixR_pix24]

end Sys2Proof.Laws.EncodeMatchesRow
end

