-- ==== Sys2Proof/Laws/Script.lean ====
section
/-! SUPPORT. What a host that plays a script can do, said once (`spec/30_encoding.md` R94, R96). -/

namespace Sys2Proof.Machine

@[simp] theorem scriptActions_nil : scriptActions [] = [] := rfl

@[simp] theorem scriptActions_cons (l : Line) (ls : List Line) :
    scriptActions (l :: ls) = expandLine l ++ scriptActions ls := rfl

/-- Only a POLL's action waits for its answer. -/
theorem goesOn_of_not_poll {l : Line} (hl : l.isPoll = false) {a : Action} (ha : a ∈ expandLine l)
    (r : Option Reply) : a.goesOn r = true := by
  have h : a.pollFor = none := by
    cases l <;> simp [expandLine, Line.isPoll] at ha hl
    case stmt => rw [ha]
    case cmd => rw [ha]
    case header => rcases ha with rfl | rfl | rfl | rfl <;> rfl
    case metadata => rcases ha with rfl | rfl | rfl <;> rfl
    case bytes => obtain ⟨k, -, rfl⟩ := ha; rfl
  rw [Action.goesOn, h]

/-- A script at its end sends nothing more. -/
theorem playOne_of_ended (gap : Nat) {p : Playing} (h : p.rest = []) : playOne gap p = .next p := by
  rw [playOne, h]

theorem play_of_ended (gaps : List Nat) {p : Playing} (h : p.rest = []) : play gaps p = .next p := by
  induction gaps with
  | nil => rfl
  | cons gap gaps ih => rw [play, playOne_of_ended gap h]; exact ih

/-- A script is played on from where it stands. -/
theorem play_append {gaps : List Nat} {p q : Playing} (h : play gaps p = .next q) (more : List Nat) :
    play (gaps ++ more) p = play more q := by
  induction gaps generalizing p with
  | nil => cases h; rfl
  | cons gap gaps ih =>
    simp only [List.cons_append, play] at h ⊢
    split at h
    · exact ih h
    · cases h
    · cases h

/-- One transaction of a script, where the machine answers it. -/
theorem playOne_eq {gap : Nat} {p : Playing} {a : Action} {rest : List Action} {u t : State}
    (hp : p.rest = a :: rest) (hu : Sys2Proof.core.run gap p.state = .next u)
    (ht : step { u with events := a.event :: u.events } = .next t) :
    playOne gap p = .next (p.afterAnswer a rest t) := by
  simp only [playOne, hp, hu, ht]

/-- The action that asks again stays first; any other is done. -/
theorem Playing.afterAnswer_rest (p : Playing) (a : Action) (rest : List Action) (t : State) :
    (p.afterAnswer a rest t).rest = if a.goesOn t.reply then rest else a :: rest := rfl

@[simp] theorem Playing.afterAnswer_state (p : Playing) (a : Action) (rest : List Action) (t : State) :
    (p.afterAnswer a rest t).state = t := rfl

/-- An answer meets a POLL's condition by its data (R94). -/
theorem pollMet_iff (mask value : Word) (r : Reply) :
    pollMet mask value r = true ↔ ∃ resp v, r = .read resp v ∧ v &&& mask = value := by
  cases r <;> simp [pollMet]

end Sys2Proof.Machine
end

