-- ==== Sys2Proof/Tests/Slice0.lean ====
section
/-! SUPPORT. Tests on fixed values, and for each obligation with hypotheses a state and operands that meet
them. Expected values come from `spec/95_test_vectors.md` (the row or program is named) or from the rule
named. Every state has P_MAX = 16, as in the vectors. -/

namespace Sys2Proof.Tests

open Sys2Proof.Machine

/-! ## Helpers -/

/-- After reset, P_MAX = 16. -/
def idle : State := State.afterReset 3 0 0

/-- IDLE with a header. -/
def withHeader (fmt : BitVec 8) (w h : BitVec 16) (len : Word) : State :=
  { idle with header := { idle.header with fmt := fmt, width := w, height := h, len := len } }

/-- BUSY with a job of a size, with a buffer of given bytes from offset 0. -/
def busy (w h : BitVec 16) (bytes : List Byte) : State :=
  { idle with
    status := { idle.status with busy := true }
    job := { idle.job with width := w, height := h }
    ibuf := (List.range bytes.length).zip bytes }

/-- A state with events to come. -/
def before (s : State) (es : List Event) : State := { s with events := es }

/-- What one operation leaves, seen through `f`. -/
def seen {α : Type} (f : State → α) : Host.Outcome State Fault Refusal → Option α
  | .next t => some (f t)
  | .fault _ => none
  | .refused _ => none

/-- STATUS as a host reads it, with the error count. -/
def statusAndErrors (s : State) : Word × Word := (s.readRegister .status, s.errCount)

/-- The write of a command. -/
def command (c : Command) : Event := .bus (commandTxn c.word)

/-! ## Well-formedness: each check refuses an ill-formed term -/

theorem test_wellFormed_refuses_command_word :
    (Instr.regWr 0x00C 0x00000001 0xF).wellFormed = false ∧
      (Instr.regWr 0x00C 0x00000003 0xF).wellFormed = false := by decide

theorem test_wellFormed_admits_other_words :
    (Instr.regWr 0x00C 0x00000004 0xF).wellFormed = true ∧
      (Instr.regWr 0x00C 0x00000001 0x3).wellFormed = true ∧
      (Instr.regWr 0x008 0x00000001 0xF).wellFormed = true := by decide

theorem test_wellFormed_refuses_pixel_outside_every_raster :
    (Instr.cvt 5592404 0 0 0).wellFormed = false ∧
      (Instr.cvt 5592403 0 0 0).wellFormed = true := by decide

/-! ## Decoding: words written out from `spec/30_encoding.md` R83, R84, R87 and `spec/95` section 2.4 -/

theorem test_decode_regRd : decode (.bus ⟨0b000000000000000000000010000, 0, 0⟩) = .ok (.regRd 0x010) := by
  decide

theorem test_decode_regWr :
    decode (.bus ⟨0b100000000000000000000011000, 0xFFFF0002, 0b1111⟩) =
      .ok (.regWr 0x018 0xFFFF0002 0b1111) := by decide

theorem test_decode_ibufRd :
    decode (.bus ⟨0b001000000000000000000101100, 0, 0⟩) = .ok (.ibufRd 0x00002C) := by decide

theorem test_decode_ibufWr :
    decode (.bus ⟨0b101000000000000000000000100, 0x0000FFFF, 0b0011⟩) =
      .ok (.ibufWr 0x000004 0x0000FFFF 0b0011) := by decide

theorem test_decode_obufRd :
    decode (.bus ⟨0b010000000000000000000011100, 0, 0⟩) = .ok (.obufRd 0x00001C) := by decide

theorem test_decode_obufWr :
    decode (.bus ⟨0b110000000000000000000000000, 0xDEADBEEF, 0b1111⟩) =
      .ok (.obufWr 0x000000 0xDEADBEEF 0b1111) := by decide

theorem test_decode_commands :
    decode (.bus ⟨0x400000C, 0x00000000, 0xF⟩) = .ok .nop ∧
      decode (.bus ⟨0x400000C, 0x00000001, 0xF⟩) = .ok .start ∧
      decode (.bus ⟨0x400000C, 0x00000002, 0xF⟩) = .ok .clear ∧
      decode (.bus ⟨0x400000C, 0x00000003, 0xF⟩) = .ok .abort := by decide

/-- R87: a legal opcode in the low byte does not make a command. -/
theorem test_decode_illegal_command :
    decode (.bus ⟨0x400000C, 0x00000101, 0xF⟩) = .ok (.regWr 0x00C 0x00000101 0xF) := by decide

theorem test_decode_cvt :
    decode (.pixel 5 0b000111100001010000001010) = .ok (.cvt 5 10 20 30) := by decide

theorem test_decode_rejects :
    decode (.bus ⟨0x4001000, 1, 0xF⟩) = .reject .unmappedPage ∧
      decode (.bus ⟨0x3000000, 0, 0⟩) = .reject .unmappedRegion ∧
      decode (.pixel 5592404 0) = .reject .pixelOutsideRaster := by decide

/-- Each row of `spec/opcode_table.json` by its match word. -/
theorem test_decodeTableWord_rows :
    decodeTableWord 32 0x0000010 = some (.regRd 0x010) ∧
      decodeTableWord 32 0x4000000 = some (.regWr 0 0 0) ∧
      decodeTableWord 32 0x1000000 = some (.ibufRd 0) ∧
      decodeTableWord 32 0x5000000 = some (.ibufWr 0 0 0) ∧
      decodeTableWord 32 0x2000000 = some (.obufRd 0) ∧
      decodeTableWord 32 0x6000000 = some (.obufWr 0 0 0) ∧
      decodeTableWord 32 0 = some .nop ∧ decodeTableWord 32 1 = some .start ∧
      decodeTableWord 32 2 = some .clear ∧ decodeTableWord 32 3 = some .abort ∧
      decodeTableWord 24 0x1E140A = some (.cvt 0 10 20 30) := by decide

/-- A word placed before the step is what it runs: START of the reset header reports FORMAT
(`spec/95` section 2.3), and the pixel (10, 20, 30) gives 60 01 (section 2.1). -/
theorem test_withFetchWord_runs :
    seen statusAndErrors (step (State.reset.withFetchWord 32 1)) = some (0x104, 1) ∧
      seen State.obuf (step (State.reset.withFetchWord 24 0x1E140A)) = some [(0, 0x60), (1, 0x01)] ∧
      seen State.reply (step (State.reset.withFetchWord 32 0x0000008)) = some (some (.read .okay 2)) := by
  decide

/-! ## One pixel (`spec/95` section 2.1) -/

theorem test_luma_ties_go_up :
    luma8 0 1 187 = 57 ∧ luma8 0 4 248 = 77 ∧ luma8 0 2 175 = 53 ∧ luma8 0 6 224 = 70 := by decide

theorem test_luma_channel_order : luma8 0 0 255 = 76 ∧ luma8 0 255 0 = 150 ∧ luma8 255 0 0 = 29 := by decide

theorem test_rescale : rescale12 255 = 4080 ∧ rescale12 76 = 1216 ∧ clamp12 4096 = 4095 := by decide

/-! ## Register and buffer accesses (`spec/95` section 2.4) -/

theorem test_regRd_reset_values :
    seen State.reply (exec (.regRd 0x008) idle) = some (some (.read .okay 0x00000002)) ∧
      seen State.reply (exec (.regRd 0x058) idle) = some (some (.read .okay 0x00000010)) ∧
      seen State.reply (exec (.regRd 0x05C) idle) = some (some (.read .slverr 0)) := by decide

theorem test_regRd_status_fields :
    statusWord { busy := false, done := false, err := true, cmdErr := true, errCode := 3 } = 0x0000030C := by
  decide

theorem test_regWr_keeps_fields_only :
    seen (fun t => (t.header.width, t.reply)) (exec (.regWr 0x018 0xFFFF0002 0xF) idle) =
        some (2, some (.write .okay)) ∧
      seen (fun t => t.readRegister .ctrl) (exec (.regWr 0x008 0xFFFFFFFF 0xF) idle) = some 3 := by decide

theorem test_regWr_partial_strobe :
    seen id (exec (.regWr 0x018 5 0b0011) idle) = some { idle with reply := some (.write .slverr) } := by
  decide

theorem test_ibufRd_is_little_endian :
    seen State.reply (exec (.ibufRd 4) (busy 4 1 [1, 2, 3, 4, 5, 6, 7, 8])) =
      some (some (.read .okay 0x08070605)) := by decide

theorem test_ibufRd_end :
    seen State.reply (exec (.ibufRd 48) idle) = some (some (.read .slverr 0)) := by decide

theorem test_ibufWr_lanes :
    seen State.ibuf (exec (.ibufWr 4 0x0000FFFF 0b0011) idle) = some [(4, 0xFF), (5, 0xFF)] := by decide

theorem test_ibufWr_busy :
    seen (fun t => (t.ibuf, t.reply)) (exec (.ibufWr 0 0xFFFFFFFF 0xF) (busy 1 1 [])) =
      some ([], some (.write .slverr)) := by decide

theorem test_obufRd_reads_back :
    seen State.reply (exec (.obufRd 28) { idle with obuf := [(28, 0xEF), (29, 0xBE), (30, 0xAD), (31, 0xDE)] }) =
      some (some (.read .okay 0xDEADBEEF)) := by decide

theorem test_obufRd_busy :
    seen State.reply (exec (.obufRd 0) (busy 1 1 [])) = some (some (.read .slverr 0)) := by decide

theorem test_obufWr_bytes :
    seen State.obuf (exec (.obufWr 0 0xDEADBEEF 0xF) idle) =
      some [(0, 0xEF), (1, 0xBE), (2, 0xAD), (3, 0xDE)] := by decide

theorem test_obufWr_end :
    seen (fun t => (t.obuf, t.reply)) (exec (.obufWr 32 1 0xF) idle) = some ([], some (.write .slverr)) := by
  decide

/-! ## Commands (`spec/95` section 2.3) -/

theorem test_nop_keeps_done :
    seen statusAndErrors (exec .nop { idle with status := { idle.status with done := true } }) =
      some (0x2, 0) := by decide

/-- The 34-bit compare: LENGTH, not CAPACITY. -/
theorem test_start_compares_exactly :
    seen statusAndErrors (exec .start (withHeader 1 0xFFFF 0xFFFF 0xFFFA0003)) = some (0x204, 1) := by decide

theorem test_start_accepts_P_MAX_pixels :
    seen statusAndErrors (exec .start (withHeader 1 4 4 48)) = some (0x1, 0) ∧
      seen statusAndErrors (exec .start (withHeader 1 17 1 51)) = some (0x304, 1) := by decide

theorem test_clear_keeps_busy :
    seen statusAndErrors (exec .clear { idle with status := { idle.status with busy := true, cmdErr := true } }) =
      some (0x1, 0) := by decide

theorem test_abort_keeps_cmdErr :
    seen (fun t => (t.readRegister .status, t.frameCount))
        (exec .abort { idle with status := { idle.status with busy := true, cmdErr := true } }) =
      some (0x8, 0) := by decide

theorem test_illegal_command_keeps_done :
    seen statusAndErrors (exec (.regWr 0x00C 4 0xF) { idle with status := { idle.status with done := true } }) =
      some (0xA, 0) := by decide

/-! ## The engine -/

theorem test_cvt_stores_little_endian :
    seen State.obuf (exec (.cvt 1 0 0 255) (busy 2 1 [])) = some [(2, 0xC0), (3, 0x04)] := by decide

/-- The vector W1, from the buffer to the descriptor. -/
theorem test_completion_of_W1 :
    seen (fun t => (t.obuf, t.out.width, t.out.step, t.out.len))
        (step (busy 2 1 [0, 0, 255, 255, 255, 255])) =
      some ([(0, 0xC0), (1, 0x04), (2, 0xF0), (3, 0x0F)], 2, 4, 4) := by decide

/-! ## Scripts (`spec/30_encoding.md` R94) -/

/-- `BYTES IBUF+3` of three bytes is two words with strobes 1000 and 0011. -/
theorem test_bytes_expansion :
    scriptEvents [.bytes .ibuf 3 [0xAA, 0xBB, 0xCC]] =
      [.bus ⟨0x5000000, 0xAA000000, 0b1000⟩, .bus ⟨0x5000004, 0x0000CCBB, 0b0011⟩] := by decide

/-- `spec/95` program P1, step 13: WAITIDLE with the completion before its read ends with STATUS 0x2; with no
completion before it, it waits. -/
theorem test_waitIdle :
    (match play [0, 1] (startScript [waitIdle] (busy 0 0 [])) with
      | .next q => some (q.rest, q.state.reply, q.asExpected)
      | _ => none) = some ([], some (.read .okay 0x00000002), true) ∧
    (match play [0] (startScript [waitIdle] (busy 0 0 [])) with
      | .next q => some (q.rest == scriptActions [waitIdle], q.state.reply)
      | _ => none) = some (true, some (.read .okay 0x00000001)) := by decide

/-- R93: a suffix states the expected data; without one a statement expects OKAY. -/
theorem test_expected_answers :
    (match play [0] (startScript [.stmt (.rd (.reg .id)) ⟨.okay, some 0x4C554D41⟩] idle) with
      | .next q => some q.asExpected
      | _ => none) = some true ∧
    (match play [0] (startScript [.stmt (.wr (.reg .width) 5 0b0011)] idle) with
      | .next q => some q.asExpected
      | _ => none) = some false := by decide

/-! ## Witnesses: each obligation's hypotheses hold together somewhere -/

theorem test_witness_DecodeOfEncodeIsTheInstruction :
    (Instr.regWr 0x00C 4 0xF).wellFormed = true ∧ (Instr.cvt 5592403 0 0 0).wellFormed = true := by decide

theorem test_witness_DecodedFormsHaveOneMeaning :
    decode (.bus ⟨0x7000000 - 4, 1, 0⟩) = .ok (.obufWr 0xFFFFFC 1 0) ∧
      decode (.bus ⟨0x0000FFF, 1, 1⟩) = .ok (.regRd 0xFFF) ∧
      decode (.pixel 5592403 0xFFFFFF) = .ok (.cvt 5592403 255 255 255) := by decide

theorem test_witness_DecoderFollowsTheKeyTable :
    ∃ row ∈ keyRows, row.op = .obufWr ∧ (0x6FFFFFF : Key) &&& row.mask = row.pattern := by decide

theorem test_witness_CommandWordsAreZeroToThree :
    Command.ofWord 3 = some .abort ∧ Command.ofWord 4 = none := by decide

theorem test_witness_StatementsEncodeAsKeyDataAndStrobe : 16777215 < 2 ^ 24 := by decide

theorem test_witness_LumaLaws :
    ((3 : Byte) ≤ 3 ∧ (7 : Byte) ≤ 255 ∧ (0 : Byte) ≤ 1) ∧ lumaSum 0 1 187 % 1000 = 500 := by decide

theorem test_witness_SampleLaws :
    ((0 : Byte) ≤ 255 ∧ (4 : Byte) ≤ 4 ∧ (9 : Byte) ≤ 10) ∧ luma8 4 0 0 < luma8 5 0 0 := by decide

/-- Truncation meets the constraints on a luma function too, and is another function than LUMA8. -/
theorem test_witness_EveryConformingLumaKeepsTheSampleLaws :
    ConformingLuma (fun b g r => BitVec.ofNat 8 (lumaSum b g r / 1000)) := by
  have value : ∀ b g r : Byte,
      (BitVec.ofNat 8 (lumaSum b g r / 1000)).toNat = lumaSum b g r / 1000 := by
    intro b g r
    have hb := b.isLt
    have hg := g.isLt
    have hr := r.isLt
    simp only [BitVec.toNat_ofNat, lumaSum]
    omega
  refine ⟨fun v => ?_, fun b g r b' g' r' hb hg hr => ?_, by decide, by decide, fun b g r => ?_⟩
  · apply BitVec.eq_of_toNat_eq
    rw [value, lumaSum]
    omega
  · rw [BitVec.le_def] at *
    rw [value, value, lumaSum, lumaSum]
    omega
  · rw [value]
    omega

theorem test_witness_CvtStoresTheSampleOfItsPixel :
    (busy 4 4 []).status.busy = true ∧ 15 < (busy 4 4 []).job.pixels ∧ 15 < (busy 4 4 []).pMax := by decide

theorem test_witness_CvtOutsideItsOperandsStops :
    ¬((busy 4 4 []).status.busy = true ∧ 16 < (busy 4 4 []).job.pixels) ∧
      ((busy 17 1 []).status.busy = true ∧ 16 < (busy 17 1 []).job.pixels ∧ (busy 17 1 []).pMax ≤ 16) := by
  decide

theorem test_witness_CompletionEmitsTheFrame :
    (busy 4 4 []).inReset = false ∧ (busy 4 4 []).status.busy = true ∧
      (busy 4 4 []).job.pixels ≤ (busy 4 4 []).pMax ∧ (busy 4 4 []).events = [] ∧
      (before (busy 4 4 []) [.complete]).events = [.complete] := by decide

theorem test_witness_PixelOrderIsNotObservable :
    (busy 4 4 []).status.busy = true ∧ (busy 4 4 []).job.pixels ≤ (busy 4 4 []).pMax ∧
      (List.range 16).reverse.Perm (List.range (busy 4 4 []).job.pixels) :=
  ⟨by decide, by decide, List.reverse_perm _⟩

theorem test_witness_EqualJobsLeaveEqualFrames :
    let s := busy 1 1 [1, 2, 3, 4]
    let s' := { busy 1 1 [1, 2, 3, 9] with errCount := 7 }
    s.inReset = false ∧ s'.inReset = false ∧ s.status.busy = true ∧ s'.status.busy = true ∧
      s.events = [] ∧ s'.events = [] ∧ s.job = s'.job ∧
      ∀ k, k < 3 * s.job.pixels → s.readByte .ibuf k = s'.readByte .ibuf k := by decide

theorem test_witness_EngineDoesNothingWhileIdle :
    idle.status.busy = false ∧ idle.events = [] ∧ (before idle [.complete]).events = [.complete] := by decide

theorem test_witness_StartWithAGoodHeaderBeginsTheJob :
    let s := withHeader 1 4 4 48
    s.status.busy = false ∧ s.header.fmt = 0x01 ∧
      s.header.len.toNat = 3 * (s.header.width.toNat * s.header.height.toNat) ∧
      s.header.width.toNat * s.header.height.toNat ≤ s.pMax := by decide

/-- The three clauses exclude each other; the third at P_MAX + 1. -/
theorem test_witness_StartReportsTheFirstFailedCheck :
    (withHeader 0x10 1 1 3).status.busy = false ∧ (withHeader 0x10 1 1 3).header.fmt ≠ 0x01 ∧
      (withHeader 1 1 1 4).header.len.toNat ≠ 3 * (1 * 1) ∧
      (withHeader 1 17 1 51).header.len.toNat = 3 * (17 * 1) ∧ (withHeader 1 17 1 51).pMax < 17 * 1 := by decide

theorem test_witness_StartWhileBusyIsACommandError : (busy 2 1 []).status.busy = true := by decide

theorem test_witness_AbortAbandonsTheJob :
    idle.status.busy = false ∧ (busy 2 1 []).status.busy = true ∧ 1 < (busy 2 1 []).job.pixels := by decide

theorem test_witness_IllegalCommandWordIsACommandError :
    4 ≤ (4 : Word).toNat ∧ 4 ≤ (0xFFFFFFFF : Word).toNat := by decide

theorem test_witness_EarlierResultsDoNotAffectAStart :
    (withHeader 1 1 1 3).status.busy = false ∧
      seen (fun t => t.status.busy) (exec .start (withHeader 1 1 1 3)) = some true := by decide

theorem test_witness_RegAccessesCompleteOrRaiseBusError :
    ((0x058 : BitVec 12).toNat % 4 = 0 ∧ (0x058 : BitVec 12).toNat ≤ 0x058) ∧
      ¬((0x05C : BitVec 12).toNat % 4 = 0 ∧ (0x05C : BitVec 12).toNat ≤ 0x058) ∧
      ¬((0x057 : BitVec 12).toNat % 4 = 0 ∧ (0x057 : BitVec 12).toNat ≤ 0x058) ∧
      (0xE : Strobe) ≠ 0xF := by decide

theorem test_witness_RegWriteStoresTheFields :
    (0x058 : BitVec 12) ∈ ([0x000, 0x004, 0x010, 0x030, 0x034, 0x038, 0x03C, 0x040, 0x044, 0x048, 0x04C,
      0x050, 0x054, 0x058] : List (BitVec 12)) := by decide

theorem test_witness_RegisterWriteIsReadBack :
    (Reg.inStampNsec, (0xFFFFFFFF : Word)) ∈ ([(.ctrl, 0x00000003), (.srcFmt, 0x000000FF),
      (.width, 0x0000FFFF), (.height, 0x0000FFFF), (.srcLen, 0xFFFFFFFF), (.inSeq, 0xFFFFFFFF),
      (.inStampSec, 0xFFFFFFFF), (.inStampNsec, 0xFFFFFFFF)] : List (Reg × Word)) := by decide

theorem test_witness_IbufReadReturnsItsFourBytes :
    (44 % 4 = 0 ∧ 44 + 4 ≤ 3 * idle.pMax) ∧ ¬(48 % 4 = 0 ∧ 48 + 4 ≤ 3 * idle.pMax) ∧
      ¬(45 % 4 = 0 ∧ 45 + 4 ≤ 3 * idle.pMax) := by decide

theorem test_witness_IbufWriteStoresTheEnabledLanes :
    (44 % 4 = 0 ∧ 44 + 4 ≤ 3 * idle.pMax ∧ idle.status.busy = false) ∧
      ¬(48 % 4 = 0 ∧ 48 + 4 ≤ 3 * idle.pMax ∧ idle.status.busy = false) ∧
      ¬(44 % 4 = 0 ∧ 44 + 4 ≤ 3 * idle.pMax ∧ (busy 1 1 []).status.busy = false) := by decide

theorem test_witness_ObufReadReturnsItsFourBytes :
    (28 % 4 = 0 ∧ 28 + 4 ≤ 2 * idle.pMax ∧ idle.status.busy = false) ∧
      ¬(32 % 4 = 0 ∧ 32 + 4 ≤ 2 * idle.pMax ∧ idle.status.busy = false) ∧
      ¬(28 % 4 = 0 ∧ 28 + 4 ≤ 2 * idle.pMax ∧ (busy 1 1 []).status.busy = false) := by decide

theorem test_witness_ObufWriteStoresTheEnabledLanes :
    (0 % 4 = 0 ∧ 0 + 4 ≤ 2 * idle.pMax ∧ idle.status.busy = false) ∧
      ¬(30 % 4 = 0 ∧ 30 + 4 ≤ 2 * idle.pMax ∧ idle.status.busy = false) ∧
      ¬(0 % 4 = 0 ∧ 0 + 4 ≤ 2 * idle.pMax ∧ (busy 1 1 []).status.busy = false) := by decide

theorem test_witness_AWordWrittenIsReadBack :
    44 % 4 = 0 ∧ 28 % 4 = 0 ∧ idle.status.busy = false ∧ 44 + 4 ≤ 3 * idle.pMax ∧ 28 + 4 ≤ 2 * idle.pMax := by
  decide

theorem test_witness_StepRunsTheDecodedInstruction :
    let s := before idle [.bus ⟨0x0000010, 0, 0⟩]
    let u := before (busy 4 4 []) [.complete]
    (s.inReset = false ∧ s.events = [.bus ⟨0x0000010, 0, 0⟩] ∧
      decode (.bus ⟨0x0000010, 0, 0⟩) = .ok (.regRd 0x010)) ∧
    (u.inReset = false ∧ u.events = [.complete] ∧ u.status.busy = true ∧ 15 < u.job.pixels ∧
      u.job.pixels ≤ u.pMax) := by decide

/-- Each of the six causes, and none, at the edges of their ranges. -/
theorem test_witness_BusErrorExactlyForItsSixCauses :
    idle.busErrorCause ⟨0x1000001, 0, 0⟩ ∧ idle.busErrorCause ⟨0x0001000, 0, 0⟩ ∧
      idle.busErrorCause ⟨0x3000000, 0, 0⟩ ∧ idle.busErrorCause ⟨0x000005C, 0, 0⟩ ∧
      idle.busErrorCause ⟨0x1000030, 0, 0⟩ ∧ idle.busErrorCause ⟨0x2000020, 0, 0⟩ ∧
      idle.busErrorCause ⟨0x4000018, 5, 0b0011⟩ ∧ (busy 1 1 []).busErrorCause ⟨0x5000000, 0, 0xF⟩ ∧
      (busy 1 1 []).busErrorCause ⟨0x2000000, 0, 0⟩ ∧
      ¬idle.busErrorCause ⟨0x0000058, 0, 0⟩ ∧ ¬idle.busErrorCause ⟨0x100002C, 0, 0⟩ ∧
      ¬idle.busErrorCause ⟨0x600001C, 0, 0⟩ ∧ ¬(busy 1 1 []).busErrorCause ⟨0x1000000, 0, 0⟩ := by
  refine ⟨?_, ?_, ?_, ?_, ?_, ?_, ?_, ?_, ?_, ?_, ?_, ?_, ?_⟩ <;> (unfold State.busErrorCause; decide)

theorem test_witness_ReadsHaveNoSideEffects :
    let s := before idle [.bus ⟨0x0000010, 0, 0⟩]
    s.inReset = false ∧ s.events = [.bus ⟨0x0000010, 0, 0⟩] ∧ (⟨0x0000010, 0, 0⟩ : Txn).isWrite = false := by
  decide

/-- A state that meets the invariants, and a step from it. -/
theorem test_witness_StepKeepsTheInvariants :
    (before idle [command .nop]).Inv ∧
      step (before idle [command .nop]) = .next { idle with reply := some (.write .okay) } :=
  ⟨⟨by decide, by decide, by decide, by decide, by decide, by decide, by decide, by decide, by decide,
    by decide⟩, rfl⟩

theorem test_witness_OnlyStartLeavesIdleAndOnlyThreeEventsLeaveBusy :
    seen (fun t => t.status.busy) (step (before (withHeader 1 0 0 0) [command .start])) = some true ∧
      seen (fun t => t.status.busy) (step (busy 0 0 [])) = some false ∧
      seen (fun t => t.status.busy) (step (before (busy 0 0 []) [.complete])) = some false ∧
      seen (fun t => t.status.busy) (step (before (busy 0 0 []) [command .abort])) = some false ∧
      seen (fun t => t.status.busy) (step (before (busy 0 0 []) [.assertReset])) = some false := by decide

theorem test_witness_CountersCountCompletionsAndReports :
    seen (fun t => (t.frameCount, t.errCount)) (step { busy 0 0 [] with frameCount := 0xFFFFFFFF }) =
        some (0, 0) ∧
      seen (fun t => (t.frameCount, t.errCount)) (step (before idle [command .start])) = some (0, 1) ∧
      seen (fun t => (t.frameCount, t.errCount))
          (step (before { idle with errCount := 4 } [.assertReset])) = some (0, 0) := by decide

theorem test_witness_JobInputsAreFixedWhileItRuns :
    let s := before (busy 1 1 [1, 2, 3]) [.bus ⟨0x5000000, 0, 0xF⟩]
    s.status.busy = true ∧ seen (fun t => t.status.busy) (step s) = some true ∧
      ¬∃ es, s.events = .assertReset :: es := by
  refine ⟨by decide, by decide, ?_⟩
  rintro ⟨es, h⟩
  cases h

theorem test_witness_EveryJobEnds :
    (busy 1 1 []).inReset = false ∧ (busy 1 1 []).status.busy = true := by decide

theorem test_witness_AStartedFrameIsEmitted :
    let s := before (withHeader 1 4 4 48) [command .start, command .clear, .complete]
    s.inReset = false ∧ s.status.busy = false ∧ s.events = [command .start, command .clear, .complete] ∧
      (∀ e ∈ [command .clear, Event.complete], e ≠ .assertReset ∧ ¬e.isCommand .abort) ∧
      s.header.fmt = 0x01 ∧
      s.header.len.toNat = 3 * (s.header.width.toNat * s.header.height.toNat) ∧
      s.header.width.toNat * s.header.height.toNat ≤ s.pMax := by
  simp only [Event.isCommand]
  decide

theorem test_witness_AZeroAreaFrameCompletes :
    let s := before (withHeader 1 0xFFFF 0 0) [command .start, .complete]
    s.inReset = false ∧ s.status.busy = false ∧ s.events = [command .start, .complete] ∧
      s.header.fmt = 0x01 ∧ s.header.len = 0 ∧ (s.header.width = 0 ∨ s.header.height = 0) := by decide

theorem test_witness_IrqFollowsItsRegisters :
    (busy 1 1 []).status.busy = true ∧ idle.status.busy = false ∧ 4 ≤ (4 : Word).toNat := by decide

theorem test_witness_ResetGivesEveryRegisterItsValue :
    (before (busy 1 1 [1]) [.assertReset]).events = [.assertReset] := by decide

theorem test_witness_TransactionsDuringResetHaveNoEffect :
    { before idle [command .start] with inReset := true }.inReset = true ∧
      (before idle [command .start]).events = [command .start] ∧
      (before idle [.releaseReset]).events = [.releaseReset] := by decide

theorem test_witness_HeaderAndMetaScriptsFillTheHeader :
    let es := scriptEvents [.header 1 2 1 6, .metadata 7 8 9]
    (before idle es).inReset = false ∧ (before idle es).events = es := by decide

/-- Up to the last byte of a buffer. -/
theorem test_witness_BytesScriptStoresItsBytes :
    let es := scriptEvents [.bytes .obuf 27 [1, 2, 3, 4, 5]]
    (before idle es).inReset = false ∧ (before idle es).status.busy = false ∧
      27 + [1, 2, 3, 4, 5].length ≤ idle.bufSize .obuf ∧ (before idle es).events = es := by decide

/-- A POLL that ends at its first read, and one that waits. -/
theorem test_witness_PollReadsUntilItsConditionHolds :
    (match play [0] (startScript [.poll (.reg .ctrl) 0x3 0x2] idle) with
      | .next q => q.rest == []
      | _ => false) = true ∧
    (match play [0, 0] (startScript [.poll (.reg .ctrl) 0x3 0x1] idle) with
      | .next q => q.rest == scriptActions [.poll (.reg .ctrl) 0x3 0x1]
      | _ => false) = true := by decide

theorem test_witness_WaitIdleEndsWithTheCompletion :
    (busy 1 1 []).inReset = false ∧ (busy 1 1 []).status.busy = true ∧ (busy 1 1 []).events = [] := by decide

theorem test_witness_ScriptWithoutPollSendsEachTransactionOnce :
    ∀ l ∈ [Line.header 1 2 1 6, .stmt (.rd (.reg .id)), .cmd .start, .bytes .ibuf 0 [1]], l.isPoll = false := by
  decide

end Sys2Proof.Tests
end

section
/-! SUPPORT. The life of a running job (`spec/00_scope.md` R5, `spec/10_state.md` R24): what one event does to
it, and how it ends; then the four statements about it. -/

namespace Sys2Proof.Machine

/-! ## Runs and the next event -/

theorem Runs.zero (s : State) : Runs 0 s s := rfl

theorem core_run_cons (M : Host.Core) {s u : M.State} (h : M.step s = .next u) (k : Nat) :
    M.run (k + 1) s = M.run k u := by
  rw [Host.Core.run, h]

/-- A step before a run. -/
theorem Runs.cons {k : Nat} {s u t : State} (h : step s = .next u) (hr : Runs k u t) :
    Runs (k + 1) s t :=
  (core_run_cons Sys2Proof.core h k).trans hr

/-- The event of the next step: with none left it is the engine's turn (R191, log entry 5). -/
def State.nextEvent (s : State) : Event := s.events.headD .complete

/-- The end of the events is an engine's turn like any other. -/
theorem step_eq_runEvent (s : State) :
    step s = runEvent s.nextEvent (s.withEvents s.events.tail) := by
  unfold step nextStep State.nextEvent
  cases he : s.events with
  | nil =>
    have hs : s.withEvents [] = s := by rw [State.withEvents, ← he]
    exact (congrArg (runEvent .complete) hs).symm
  | cons e es => rfl

/-- Every next event but an engine's turn stands at the head of the events. -/
theorem State.events_of_nextEvent {s : State} (h : s.nextEvent ≠ .complete) :
    s.events = s.nextEvent :: s.events.tail := by
  cases he : s.events with
  | nil => simp [State.nextEvent, he] at h
  | cons e es => simp [State.nextEvent, he]

theorem State.nextEvent_and_tail {s : State} {es : List Event}
    (h : s.events = .complete :: es ∨ (s.events = [] ∧ es = [])) :
    s.nextEvent = .complete ∧ s.events.tail = es := by
  unfold State.nextEvent
  rcases h with he | ⟨he, rfl⟩ <;> simp [he]

/-! ## The engine's turn, and the commands in a transaction -/

theorem runEvent_complete_of_busy {s : State} (hr : s.inReset = false) (hb : s.status.busy = true) :
    runEvent .complete s = .next s.complete := by
  simp [runEvent, hr, State.completeIfBusy, hb]

/-- In reset too (`spec/70_reset_and_hazards.md` R180). -/
theorem runEvent_complete_of_idle {s : State} (hb : s.status.busy = false) :
    runEvent .complete s = .next s := by
  simp [runEvent, State.completeIfBusy, hb]

theorem runTxn_commandTxn (c : Command) (s : State) :
    runTxn (commandTxn c.word) s = exec c.instr s := by
  cases c <;> rfl

theorem State.runStart_of_busy {s : State} (hb : s.status.busy = true) : s.runStart = s.raiseCmdError :=
  if_pos hb

/-- START with a good header (`spec/42_frame.md` R118, R120). -/
theorem State.runStart_of_goodHeader {s : State} (hb : s.status.busy = false)
    (hh : s.headerError = none) : s.runStart = s.clearResult.beginJob := by
  simp [State.runStart, hb, hh]

theorem State.runAbort_of_busy {s : State} (hb : s.status.busy = true) :
    s.runAbort =
      { s with obuf := s.abortedObuf (2 * s.job.pixels), status := s.status.clearBusy, draws := s.draws + 1 } :=
  if_pos hb

/-- A transaction that writes START's word, with a good header, begins the job (R120). -/
theorem step_of_goodStart {s : State} {es : List Event} (hr : s.inReset = false)
    (hb : s.status.busy = false) (hev : s.events = .bus (commandTxn Command.start.word) :: es)
    (hh : s.headerError = none) :
    step s = .next (s.withEvents es).clearResult.beginJob.writeOkay := by
  rw [step_of_bus hr hev, runTxn_commandTxn, ← State.runStart_of_goodHeader (s := s.withEvents es) hb hh]
  rfl

/-! ## A job that goes on -/

/-- The job that runs in `s` still runs in `t`, and nothing it reads or has emitted has changed
(R72, R120, R139). -/
structure JobGoesOn (s t : State) : Prop where
  busy : t.status.busy = true
  job : t.job = s.job
  out : t.out = s.out
  frameCount : t.frameCount = s.frameCount
  ibuf : t.ibuf = s.ibuf
  obuf : t.obuf = s.obuf
  epoch : t.epoch = s.epoch
  /-- No event of it begins a reset. -/
  inReset : s.inReset = false → t.inReset = false

theorem JobGoesOn.refl {s : State} (hb : s.status.busy = true) : JobGoesOn s s :=
  ⟨hb, rfl, rfl, rfl, rfl, rfl, rfl, id⟩

theorem JobGoesOn.trans {s u t : State} (h : JobGoesOn s u) (h' : JobGoesOn u t) : JobGoesOn s t :=
  ⟨h'.busy, h'.job.trans h.job, h'.out.trans h.out, h'.frameCount.trans h.frameCount,
    h'.ibuf.trans h.ibuf, h'.obuf.trans h.obuf, h'.epoch.trans h.epoch, h'.inReset ∘ h.inReset⟩

theorem JobGoesOn.answer {s t : State} (h : JobGoesOn s t) (r : Reply) : JobGoesOn s (t.answer r) :=
  ⟨h.busy, h.job, h.out, h.frameCount, h.ibuf, h.obuf, h.epoch, h.inReset⟩

/-- The job does not depend on the events to come. -/
theorem JobGoesOn.withEvents {s : State} (hb : s.status.busy = true) (es : List Event) :
    JobGoesOn s (s.withEvents es) :=
  ⟨hb, rfl, rfl, rfl, rfl, rfl, rfl, id⟩

theorem JobGoesOn.readByte {s t : State} (h : JobGoesOn s t) (sp : Space) (a : Nat) :
    t.readByte sp a = s.readByte sp a :=
  State.readByte_congr h.ibuf h.obuf h.epoch sp a

/-- What leaves the job alone lets it go on. -/
theorem Undisturbed.jobGoesOn {s t : State} (h : Undisturbed s t) (hb : s.status.busy = true) :
    JobGoesOn s t := by
  obtain ⟨hi, ho⟩ := h.buffers hb
  refine ⟨?_, h.job, h.out, h.frameCount, hi, ho, h.epoch, h.inReset.trans⟩
  rcases h.status with hs | hs <;> simp [hs, hb]

/-! ## A job that ends -/

/-- The three ends of a running job and what each leaves (`spec/10_state.md` R24). -/
inductive JobEnds (s : State) : Event → State → Prop where
  | completion : JobEnds s .complete s.complete
  | abort : JobEnds s (.bus (commandTxn Command.abort.word)) s.runAbort.writeOkay
  | reset : JobEnds s .assertReset s.assertReset

theorem JobEnds.idle {s t : State} {e : Event} (h : JobEnds s e t) (hb : s.status.busy = true) :
    t.status.busy = false := by
  cases h with
  | completion | reset => rfl
  | abort => rw [State.runAbort_of_busy hb]; rfl

/-- Completion and ABORT keep the snapshot and IBUF. -/
theorem JobEnds.inputs_kept {s t : State} {e : Event} (h : JobEnds s e t) (hb : s.status.busy = true)
    (he : e ≠ .assertReset) : t.job = s.job ∧ t.ibuf = s.ibuf ∧ t.epoch = s.epoch := by
  cases h with
  | completion => exact ⟨rfl, rfl, rfl⟩
  | abort => rw [State.runAbort_of_busy hb]; exact ⟨rfl, rfl, rfl⟩
  | reset => exact absurd rfl he

theorem JobEnds.eq_complete {s t : State} {e : Event} (h : JobEnds s e t)
    (he : e ≠ .assertReset ∧ ¬e.isCommand .abort) : t = s.complete := by
  cases h with
  | completion => rfl
  | abort => exact absurd rfl he.2
  | reset => exact absurd rfl he.1

/-! ## What one event does to a running job -/

/-- A command lets a running job go on, or is the ABORT that ends it. -/
theorem exec_command_of_busy (c : Command) {s : State} (hb : s.status.busy = true) :
    ∃ t, exec c.instr s = .next t ∧ t.events = s.events ∧
      (JobGoesOn s t ∨ JobEnds s (.bus (commandTxn c.word)) t) := by
  cases c with
  | nop => exact ⟨_, rfl, rfl, .inl ((JobGoesOn.refl hb).answer _)⟩
  | start =>
    refine ⟨s.raiseCmdError.writeOkay, ?_, rfl, .inl ?_⟩
    · rw [← State.runStart_of_busy hb]; rfl
    · exact ⟨hb, rfl, rfl, rfl, rfl, rfl, rfl, id⟩
  | clear => exact ⟨_, rfl, rfl, .inl ⟨hb, rfl, rfl, rfl, rfl, rfl, rfl, id⟩⟩
  | abort =>
    refine ⟨_, rfl, ?_, .inr .abort⟩
    rw [State.runAbort_of_busy hb]; rfl

/-- One event, in reset or not: the job goes on, or ends in one of the three ways. -/
theorem runEvent_of_busy (e : Event) {s : State} (hb : s.status.busy = true) :
    ∃ t, runEvent e s = .next t ∧ t.events = s.events ∧ (JobGoesOn s t ∨ JobEnds s e t) := by
  cases e with
  | assertReset => exact ⟨_, rfl, rfl, .inr .reset⟩
  | releaseReset => exact ⟨_, rfl, rfl, .inl ⟨hb, rfl, rfl, rfl, rfl, rfl, rfl, fun _ => rfl⟩⟩
  | complete =>
    by_cases hr : s.inReset = true
    · exact ⟨s, if_pos hr, rfl, .inl (.refl hb)⟩
    · exact ⟨s.complete, runEvent_complete_of_busy (by simpa using hr) hb, rfl, .inr .completion⟩
  | bus x =>
    by_cases hr : s.inReset = true
    · exact ⟨s.answerInReset x, if_pos hr, rfl, .inl ⟨hb, rfl, rfl, rfl, rfl, rfl, rfl, id⟩⟩
    · have hx : runEvent (.bus x) s = runTxn x s := if_neg hr
      rw [hx]
      rcases runTxn_cases x s with ⟨c, rfl, hc⟩ | ⟨t, ht, hu⟩
      · rw [hc]; exact exec_command_of_busy c hb
      · exact ⟨t, ht, hu.events, .inl (hu.jobGoesOn hb)⟩

/-! ## Every running job ends -/

/-- A running job goes on unchanged up to an event that ends it, which is one of those to come or the
engine's turn after the last (R12, R191, log entry 5). -/
theorem exists_jobEnds {s : State} (hr : s.inReset = false) (hb : s.status.busy = true) :
    ∃ (k : Nat) (u t : State) (e : Event), k ≤ s.events.length + 1 ∧ Runs k s t ∧
      JobGoesOn s u ∧ JobEnds u e t ∧ (e = .complete ∨ e ∈ s.events) := by
  induction hes : s.events generalizing s with
  | nil =>
    have hs : step s = .next (s.withEvents s.events.tail).complete := by
      rw [step_eq_runEvent, State.nextEvent, hes]
      exact runEvent_complete_of_busy hr hb
    exact ⟨1, _, _, .complete, by simp, .cons hs (.zero _), .withEvents hb _, .completion, .inl rfl⟩
  | cons e es ih =>
    have hw := JobGoesOn.withEvents hb es
    obtain ⟨t, ht, hte, hcase⟩ := runEvent_of_busy e hw.busy
    have hs : step s = .next t := by
      rw [step_eq_runEvent, State.nextEvent, hes]
      exact ht
    rcases hcase with hgo | hend
    · have hst := hw.trans hgo
      obtain ⟨k, u, v, e', hk, hrun, hu, hend, he'⟩ := ih (hst.inReset hr) hst.busy hte
      exact ⟨k + 1, u, v, e', by simpa using hk, .cons hs hrun, hst.trans hu, hend,
        he'.imp_right (List.mem_cons_of_mem e)⟩
    · exact ⟨1, _, t, e, by simp, .cons hs (.zero t), hw, hend, .inr List.mem_cons_self⟩

/-! ## The samples of a completion -/

theorem luma8_toNat (b g r : Byte) : (luma8 b g r).toNat = (lumaSum b g r + 500) / 1000 := by
  have hb := b.isLt
  have hg := g.isLt
  have hr := r.isLt
  rw [luma8, BitVec.toNat_ofNat]
  unfold lumaSum
  omega

/-- The clamp never acts (`spec/41_rescale.md` R108). -/
theorem rescale12_toNat (y : Byte) : (rescale12 y).toNat = 16 * y.toNat := by
  have hy := y.isLt
  have hv : (y.setWidth 16 <<< 4).toNat = 16 * y.toNat := by
    rw [BitVec.toNat_shiftLeft, BitVec.toNat_setWidth, Nat.shiftLeft_eq]
    omega
  have hle : y.setWidth 16 <<< 4 ≤ 4095 := by
    rw [BitVec.le_def, hv, show (4095 : Sample).toNat = 4095 from rfl]
    omega
  rw [rescale12, clamp12, if_pos hle, hv]

/-- `min(16 * round(luma), 4095)` (R126, `spec/40_luma.md` R97, `spec/41_rescale.md` R105). -/
theorem sampleOf_toNat (b g r : Byte) :
    (sampleOf b g r).toNat = min (16 * ((lumaSum b g r + 500) / 1000)) 4095 := by
  have hlt := (luma8 b g r).isLt
  rw [sampleOf, sampleWith, rescale12_toNat, ← luma8_toNat]
  omega

/-- A completion leaves each sample's bytes at its pixel's place (`spec/30_encoding.md` R85). -/
theorem State.complete_readByte_obuf {s : State} {i : Nat} (h : i < s.job.pixels) :
    s.complete.readByte .obuf (2 * i) = (s.pixelSample i).extractLsb' 0 8 ∧
      s.complete.readByte .obuf (2 * i + 1) = (s.pixelSample i).extractLsb' 8 8 := by
  have hd : (2 * i + 1) / 2 = i := by omega
  have hm : (2 * i + 1) % 2 = 1 := by omega
  constructor <;>
    rw [State.readByte_obuf, State.complete_obuf, State.convertedObuf_get, if_pos (by omega)] <;>
    simp [State.jobByte, sampleByte, hd, hm]

/-! ## The statements -/

/-- Settles O20: in every state the end of the events is an engine's turn, and an engine's turn of an idle
block does nothing. -/
theorem engineDoesNothingWhileIdle : Obligations.EngineDoesNothingWhileIdle := by
  intro s es hb hev
  obtain ⟨he, ht⟩ := State.nextEvent_and_tail hev
  rw [step_eq_runEvent, he, ht]
  exact runEvent_complete_of_idle hb

/-- Settles O48: by the cases of one event on a running job. -/
theorem jobInputsAreFixedWhileItRuns : Obligations.JobInputsAreFixedWhileItRuns := by
  intro s t hb hstep hnr
  have hw := JobGoesOn.withEvents hb s.events.tail
  obtain ⟨u, hu, -, hcase⟩ := runEvent_of_busy s.nextEvent hw.busy
  obtain rfl : u = t := by simpa [step_eq_runEvent, hu] using hstep
  rcases hcase with hgo | hend
  · have hst := hw.trans hgo
    exact ⟨hst.job, hst.readByte .ibuf, fun _ => ⟨hst.out, hst.readByte .obuf⟩⟩
  · have hne : s.nextEvent ≠ .assertReset := fun h =>
      hnr ⟨s.events.tail, h ▸ State.events_of_nextEvent (by simp [h])⟩
    obtain ⟨hj, hi, he⟩ := hend.inputs_kept hw.busy hne
    refine ⟨hj, fun k => ?_, fun hbu => ?_⟩
    · rw [State.readByte_ibuf, hi, he]; rfl
    · simp [hend.idle hw.busy] at hbu

/-- Settles O49: every one of a job's three ends leaves the block IDLE. -/
theorem everyJobEnds : Obligations.EveryJobEnds := by
  intro s hr hb
  obtain ⟨k, u, t, e, hk, hrun, hgo, hend, -⟩ := exists_jobEnds hr hb
  exact ⟨k, t, hk, hrun, hend.idle hgo.busy⟩

/-- Settles O50: the START begins the job, which goes on unchanged up to its end; with no ABORT and no reset
to come, that end is the completion. -/
theorem aStartedFrameIsEmitted : Obligations.AStartedFrameIsEmitted := by
  intro s rest hr hb hev hrest hfmt hlen hcap
  have hgood : s.headerError = none := s.headerError_none_iff.mpr ⟨hfmt, hlen, hcap⟩
  have hstart := step_of_goodStart hr hb hev hgood
  obtain ⟨k, u, t, e, hk, hrun, hgo, hend, he⟩ :=
    exists_jobEnds (s := (s.withEvents rest).clearResult.beginJob.writeOkay) hr rfl
  have he' : e ≠ .assertReset ∧ ¬e.isCommand .abort := by
    rcases he with rfl | he
    · simp [Event.isCommand]
    · exact hrest e he
  obtain rfl := hend.eq_complete he'
  have hjob : u.job = s.headerJob := hgo.job
  have hibuf : ∀ a, u.readByte .ibuf a = s.readByte .ibuf a := hgo.readByte .ibuf
  refine ⟨k + 1, u.complete, Nat.succ_le_succ hk, .cons hstart hrun, rfl, rfl, ?_, ?_, ?_, fun i hi => ?_⟩
  · rw [State.complete_frameCount, hgo.frameCount]; rfl
  · rw [State.complete_out, hjob]; rfl
  · rw [State.complete_out, hjob]; rfl
  · have hpix : i < u.job.pixels := by rw [hjob]; exact hi
    exact ⟨s.pixelSample i, sampleOf_toNat _ _ _,
      State.pixelSample_congr hibuf i ▸ State.complete_readByte_obuf hpix⟩

end Sys2Proof.Machine
end

section
/-! SUPPORT. What one step can do, from any state (`spec/10_state.md` R24, `spec/20_memory.md` R67, R74):
the cases of an event with their conditions, and from them who moves BUSY and the counters. -/

namespace Sys2Proof.Machine

/-! ## The next event and the head of the events -/

theorem State.nextEvent_eq_iff {s : State} {e : Event} (he : e ≠ .complete) :
    s.nextEvent = e ↔ ∃ es, s.events = e :: es := by
  constructor
  · rintro rfl
    exact ⟨_, State.events_of_nextEvent he⟩
  · rintro ⟨es, h⟩
    simp [State.nextEvent, h]

/-- The engine's turn comes by its event, or with no event left (R191, log entry 5). -/
theorem State.nextEvent_eq_complete_iff (s : State) :
    s.nextEvent = .complete ↔ s.events = [] ∨ ∃ es, s.events = .complete :: es := by
  cases h : s.events <;> simp [State.nextEvent, h]

/-! ## Commands by their words (`spec/30_encoding.md` R87) -/

theorem commandTxn_word_inj {c d : Command} : commandTxn c.word = commandTxn d.word ↔ c = d := by
  constructor
  · intro h
    have hw : c.word = d.word := congrArg Txn.wdata h
    simpa [Command.ofWord_word] using congrArg Command.ofWord hw
  · rintro rfl
    rfl

/-- A command is the effect of its word, answered OKAY (`spec/43_bus_access.md` R142). -/
theorem exec_command (c : Command) (s : State) :
    exec c.instr s = .next (s.runCommandWord c.word).writeOkay := by
  cases c <;> rfl

theorem State.runCommandWord_word (s : State) (c : Command) :
    s.runCommandWord c.word =
      match c with
      | .nop => s
      | .start => s.runStart
      | .clear => s.runClear
      | .abort => s.runAbort := by
  cases c <;> rfl

theorem State.runStart_of_badHeader {s : State} {e : ErrorCode} (hb : s.status.busy = false)
    (hh : s.headerError = some e) : s.runStart = s.clearResult.raiseDecodeError e := by
  simp [State.runStart, hb, hh]

/-- START is a command error, a report, or the beginning of a job (`spec/42_frame.md` R118 to R121). -/
theorem State.runStart_cases (s : State) :
    (s.status.busy = true ∧ s.runStart = s.raiseCmdError) ∨
    (∃ e, s.status.busy = false ∧ s.headerError = some e ∧
      s.runStart = s.clearResult.raiseDecodeError e) ∨
    (s.status.busy = false ∧ s.headerError = none ∧ s.runStart = s.clearResult.beginJob) := by
  cases hb : s.status.busy with
  | true => exact .inl ⟨rfl, State.runStart_of_busy hb⟩
  | false =>
    cases hh : s.headerError with
    | none => exact .inr (.inr ⟨rfl, rfl, State.runStart_of_goodHeader hb hh⟩)
    | some e => exact .inr (.inl ⟨e, rfl, rfl, State.runStart_of_badHeader hb hh⟩)

theorem State.runAbort_of_idle {s : State} (hb : s.status.busy = false) : s.runAbort = s := by
  simp [State.runAbort, hb]

/-- What no command touches. -/
theorem State.runCommandWord_frame (s : State) (c : Command) :
    (s.runCommandWord c.word).quads = s.quads ∧ (s.runCommandWord c.word).out = s.out ∧
    (s.runCommandWord c.word).inReset = s.inReset ∧
    (s.runCommandWord c.word).frameCount = s.frameCount := by
  rw [State.runCommandWord_word]
  cases c with
  | nop | clear => exact ⟨rfl, rfl, rfl, rfl⟩
  | start =>
    rcases s.runStart_cases with ⟨-, h⟩ | ⟨e, -, -, h⟩ | ⟨-, -, h⟩ <;> rw [h] <;>
      exact ⟨rfl, rfl, rfl, rfl⟩
  | abort =>
    cases hb : s.status.busy with
    | true => rw [State.runAbort_of_busy hb]; exact ⟨rfl, rfl, rfl, rfl⟩
    | false => rw [State.runAbort_of_idle hb]; exact ⟨rfl, rfl, rfl, rfl⟩

/-! ## One event -/

/-- What one event does, with the condition of each case (`spec/70_reset_and_hazards.md` R177 to R180,
`spec/42_frame.md` R127). -/
inductive EventCase (s : State) : Event → State → Prop where
  | assertReset : EventCase s .assertReset s.assertReset
  | releaseReset : EventCase s .releaseReset s.releaseReset
  | duringReset (x : Txn) (hr : s.inReset = true) : EventCase s (.bus x) (s.answerInReset x)
  | engineRests (h : ¬(s.inReset = false ∧ s.status.busy = true)) : EventCase s .complete s
  | completion (hr : s.inReset = false) (hb : s.status.busy = true) : EventCase s .complete s.complete
  | command (c : Command) (hr : s.inReset = false) :
      EventCase s (.bus (commandTxn c.word)) (s.runCommandWord c.word).writeOkay
  | access {x : Txn} {t : State} (hr : s.inReset = false) (hx : ∀ c : Command, x ≠ commandTxn c.word)
      (ht : runTxn x s = .next t) (hu : Undisturbed s t) : EventCase s (.bus x) t

theorem eventCase_of_runTxn {s t : State} {x : Txn} (hr : s.inReset = false)
    (h : runTxn x s = .next t) : EventCase s (.bus x) t := by
  by_cases hx : ∃ c : Command, x = commandTxn c.word
  · obtain ⟨c, rfl⟩ := hx
    rw [runTxn_commandTxn, exec_command] at h
    cases h
    exact .command c hr
  · have hne : ∀ c : Command, x ≠ commandTxn c.word := fun c hc => hx ⟨c, hc⟩
    rcases runTxn_cases x s with ⟨c, hc, -⟩ | ⟨u, hu, hun⟩
    · exact absurd hc (hne c)
    · rw [hu] at h
      cases h
      exact .access hr hne hu hun

theorem eventCase_of_runEvent {s t : State} {e : Event} (h : runEvent e s = .next t) :
    EventCase s e t := by
  cases e with
  | assertReset => cases h; exact .assertReset
  | releaseReset => cases h; exact .releaseReset
  | bus x =>
    by_cases hr : s.inReset = true
    · obtain rfl : s.answerInReset x = t := by simpa [runEvent, hr] using h
      exact .duringReset x hr
    · have hr' : s.inReset = false := by simpa using hr
      exact eventCase_of_runTxn hr' (by simpa [runEvent, hr'] using h)
  | complete =>
    by_cases hrb : s.inReset = false ∧ s.status.busy = true
    · rw [runEvent_complete_of_busy hrb.1 hrb.2] at h
      cases h
      exact .completion hrb.1 hrb.2
    · obtain rfl : s = t := by
        cases hr : s.inReset <;> simp_all [runEvent, State.completeIfBusy]
      exact .engineRests hrb

/-- One step is its next event on the state without it. -/
theorem eventCase_of_step {s t : State} (h : step s = .next t) :
    EventCase (s.withEvents s.events.tail) s.nextEvent t :=
  eventCase_of_runEvent (by rw [← step_eq_runEvent]; exact h)

/-! ## Who moves BUSY (R24) -/

theorem Undisturbed.busy {s t : State} (h : Undisturbed s t) : t.status.busy = s.status.busy := by
  rcases h.status with hs | hs <;> rw [hs]
  rfl

/-- Of the commands START alone raises BUSY, with a good header. -/
theorem State.runCommandWord_raises_busy {s : State} {c : Command} (hb : s.status.busy = false)
    (ht : (s.runCommandWord c.word).status.busy = true) : c = .start ∧ s.headerError = none := by
  rw [State.runCommandWord_word] at ht
  cases c with
  | nop | clear => simp [hb] at ht
  | abort => simp [State.runAbort_of_idle hb, hb] at ht
  | start =>
    rcases s.runStart_cases with ⟨hb', -⟩ | ⟨e, -, -, h⟩ | ⟨-, hh, -⟩
    · simp [hb] at hb'
    · simp [h, hb] at ht
    · exact ⟨rfl, hh⟩

/-- Of the commands ABORT alone drops BUSY. -/
theorem State.runCommandWord_drops_busy {s : State} {c : Command} (hb : s.status.busy = true)
    (ht : (s.runCommandWord c.word).status.busy = false) : c = .abort := by
  rw [State.runCommandWord_word] at ht
  cases c with
  | nop | clear => simp [hb] at ht
  | start => simp [State.runStart_of_busy hb, hb] at ht
  | abort => rfl

theorem EventCase.raises_busy {s t : State} {e : Event} (h : EventCase s e t)
    (hb : s.status.busy = false) (ht : t.status.busy = true) :
    s.inReset = false ∧ e = .bus (commandTxn Command.start.word) ∧ s.headerError = none := by
  cases h with
  | assertReset => cases ht
  | releaseReset | duringReset | engineRests => exact absurd (hb.symm.trans ht) (by decide)
  | completion _ hb' => simp [hb] at hb'
  | access _ _ _ hu => exact absurd (hb.symm.trans (hu.busy.symm.trans ht)) (by decide)
  | command c hr =>
    obtain ⟨rfl, hh⟩ := State.runCommandWord_raises_busy hb ht
    exact ⟨hr, rfl, hh⟩

theorem EventCase.drops_busy {s t : State} {e : Event} (h : EventCase s e t)
    (hb : s.status.busy = true) (ht : t.status.busy = false) :
    (s.inReset = false ∧ e = .complete) ∨
    (s.inReset = false ∧ e = .bus (commandTxn Command.abort.word)) ∨ e = .assertReset := by
  cases h with
  | assertReset => exact .inr (.inr rfl)
  | releaseReset | duringReset | engineRests => exact absurd (hb.symm.trans ht) (by decide)
  | completion hr _ => exact .inl ⟨hr, rfl⟩
  | access _ _ _ hu => exact absurd (hb.symm.trans (hu.busy.symm.trans ht)) (by decide)
  | command c hr =>
    obtain rfl := State.runCommandWord_drops_busy hb ht
    exact .inr (.inl ⟨hr, rfl⟩)

/-- Settles O46: by the cases of the step's event. -/
theorem onlyStartLeavesIdleAndOnlyThreeEventsLeaveBusy :
    Obligations.OnlyStartLeavesIdleAndOnlyThreeEventsLeaveBusy := by
  intro s t hstep
  have hcase := eventCase_of_step hstep
  refine ⟨fun hb ht => ?_, fun hb ht => ?_⟩
  · obtain ⟨hr, he, hh⟩ := hcase.raises_busy hb ht
    exact ⟨hr, (State.nextEvent_eq_iff (by simp)).mp he, s.headerError_none_iff.mp hh⟩
  · rcases hcase.drops_busy hb ht with ⟨hr, he⟩ | ⟨hr, he⟩ | he
    · exact .inl ⟨hr, s.nextEvent_eq_complete_iff.mp he⟩
    · exact .inr (.inl ⟨hr, (State.nextEvent_eq_iff (by simp)).mp he⟩)
    · exact .inr (.inr ((State.nextEvent_eq_iff (by simp)).mp he))

/-! ## Who moves the counters (R48, R49, R130) -/

/-- ERR_COUNT after a command: one more exactly for a START that fails a check. -/
theorem State.runCommandWord_errCount (s : State) (c : Command) :
    (s.runCommandWord c.word).errCount =
      if s.status.busy = false ∧ c = .start ∧ s.headerError ≠ none then s.errCount + 1
      else s.errCount := by
  rw [State.runCommandWord_word]
  cases c with
  | nop | clear => simp
  | abort => cases hb : s.status.busy <;> simp [State.runAbort, hb]
  | start =>
    rcases s.runStart_cases with ⟨hb, h⟩ | ⟨e, hb, hh, h⟩ | ⟨hb, hh, h⟩ <;> simp [*]

theorem EventCase.frameCount {s t : State} {e : Event} (h : EventCase s e t)
    (he : e ≠ .assertReset) :
    t.frameCount =
      if s.inReset = false ∧ s.status.busy = true ∧ e = .complete then s.frameCount + 1
      else s.frameCount := by
  cases h with
  | assertReset => exact absurd rfl he
  | releaseReset => simp
  | duringReset => simp [State.answerInReset]
  | engineRests h => rw [if_neg fun h' => h ⟨h'.1, h'.2.1⟩]
  | completion hr hb => simp [hr, hb]
  | command c _ => simpa [State.writeOkay_eq] using (s.runCommandWord_frame c).2.2.2
  | access _ _ _ hu => simpa using hu.frameCount

theorem EventCase.errCount {s t : State} {e : Event} (h : EventCase s e t)
    (he : e ≠ .assertReset) :
    t.errCount =
      if s.inReset = false ∧ s.status.busy = false ∧ e = .bus (commandTxn Command.start.word) ∧
        s.headerError ≠ none then s.errCount + 1
      else s.errCount := by
  cases h with
  | assertReset => exact absurd rfl he
  | releaseReset | engineRests | completion => simp
  | duringReset x hr => simp [State.answerInReset, hr]
  | command c hr =>
    simp [State.writeOkay_eq, State.runCommandWord_errCount, hr, commandTxn_word_inj]
  | access _ hx _ hu => simpa [hx .start] using hu.errCount

/-- Settles O47: both counters as functions of the step's event, which are 0 at a reset. -/
theorem countersCountCompletionsAndReports : Obligations.CountersCountCompletionsAndReports := by
  intro s t hstep
  have hcase := eventCase_of_step hstep
  simp only [← s.nextEvent_eq_complete_iff, ← State.headerError_none_iff,
    ← State.nextEvent_eq_iff (s := s) (e := .assertReset) (by simp),
    ← State.nextEvent_eq_iff (s := s) (e := .bus (commandTxn Command.start.word)) (by simp)]
  refine ⟨fun he => ?_, fun he => ?_⟩
  · rw [he] at hcase
    cases hcase
    exact ⟨rfl, rfl⟩
  · have hf := hcase.frameCount he
    have hc := hcase.errCount he
    exact ⟨fun h => hf.trans (if_pos h), fun h => hf.trans (if_neg h),
      fun h => hc.trans (if_pos h), fun h => hc.trans (if_neg h)⟩

end Sys2Proof.Machine
end

section
/-! SUPPORT. The invariants of `spec/10_state.md` R59, part by part: the flags with the running job, the
descriptor, the buffers; what each operation keeps of its part, and from that what every step keeps. -/

namespace Sys2Proof.Machine

/-! ## The parts of the invariants -/

/-- R59 items 1 to 4. -/
structure Status.Consistent (f : Status) : Prop where
  busyNoResult : f.busy = true → f.done = false ∧ f.err = false
  notDoneAndErr : ¬(f.done = true ∧ f.err = true)
  errIffCode : f.err = false ↔ f.errCode = 0
  codeRange : f.errCode.toNat ≤ 3

/-- R59 items 5 and 6. -/
structure Descriptor.Fits (d : Descriptor) (pMax : Nat) : Prop where
  stepAndLen : d.step.toNat = 2 * d.width.toNat ∧
    d.len.toNat = 2 * d.width.toNat * d.height.toNat
  area : d.width.toNat * d.height.toNat ≤ pMax

/-- The flags agree, and a running job fits the buffers (`spec/42_frame.md` R118). -/
structure State.ControlOk (s : State) : Prop where
  status : s.status.Consistent
  jobFits : s.status.busy = true → s.job.pixels ≤ s.pMax

theorem State.Inv.of_parts {s : State} (hc : s.ControlOk) (hd : s.out.Fits s.pMax)
    (hr : s.inReset = true → s.status.busy = false ∧ s.irq = false) (hb : ∀ sp, s.bufOk sp) :
    s.Inv :=
  ⟨hc.status.busyNoResult, hc.status.notDoneAndErr, hc.status.errIffCode, hc.status.codeRange,
    hd.stepAndLen, hd.area, hc.jobFits, hr, hb .ibuf, hb .obuf⟩

theorem State.Inv.controlOk {s : State} (h : s.Inv) : s.ControlOk :=
  ⟨⟨h.busyNoResult, h.notDoneAndErr, h.errIffCode, h.codeRange⟩, h.jobFits⟩

theorem State.Inv.descriptorFits {s : State} (h : s.Inv) : s.out.Fits s.pMax :=
  ⟨h.stepAndLen, h.outFits⟩

theorem State.Inv.bufOk {s : State} (h : s.Inv) (sp : Space) : s.bufOk sp := by
  cases sp
  · exact h.ibufCanonical
  · exact h.obufCanonical

/-! ## The flags -/

theorem Status.consistent_of_noResult {f : Status} (hd : f.done = false) (he : f.err = false)
    (hc : f.errCode = 0) : f.Consistent :=
  ⟨fun _ => ⟨hd, he⟩, by simp [hd], by simp [he, hc], by simp [hc]⟩

theorem Status.Consistent.setCmdErr {f : Status} (h : f.Consistent) : f.setCmdErr.Consistent :=
  ⟨h.busyNoResult, h.notDoneAndErr, h.errIffCode, h.codeRange⟩

theorem Status.Consistent.clearBusy {f : Status} (h : f.Consistent) : f.clearBusy.Consistent :=
  ⟨by simp, h.notDoneAndErr, h.errIffCode, h.codeRange⟩

/-- A completion sets DONE where a running job leaves ERR clear (R59 item 1). -/
theorem Status.Consistent.setDone {f : Status} (h : f.Consistent) (hb : f.busy = true) :
    f.setDone.Consistent :=
  ⟨by simp, by simp [(h.busyNoResult hb).2], h.errIffCode, h.codeRange⟩

/-- START reports codes 1 to 3 and no other (`spec/60_exceptions.md` R161). -/
theorem State.headerError_value {s : State} {e : ErrorCode} (h : s.headerError = some e) :
    errorValue e ≠ 0 ∧ (errorValue e).toNat ≤ 3 := by
  rcases State.headerError_cases h with rfl | rfl | rfl <;> decide

/-- A report after the earlier result is cleared, while IDLE (`spec/60_exceptions.md` R160). -/
theorem Status.consistent_report {f : Status} {e : ErrorCode} (hb : f.busy = false)
    (he : errorValue e ≠ 0 ∧ (errorValue e).toNat ≤ 3) : (f.clearResult.setErr e).Consistent :=
  ⟨by simp [hb], by simp, by simpa using he.1, by simpa using he.2⟩

/-! ## The flags and the job under the commands -/

theorem State.ControlOk.raiseCmdError {s : State} (h : s.ControlOk) : s.raiseCmdError.ControlOk :=
  ⟨h.status.setCmdErr, h.jobFits⟩

/-- Only a header within P_MAX begins a job (`spec/42_frame.md` R118). -/
theorem State.ControlOk.runStart {s : State} (h : s.ControlOk) : s.runStart.ControlOk := by
  rcases s.runStart_cases with ⟨-, he⟩ | ⟨e, hb, hh, he⟩ | ⟨-, hh, he⟩ <;> rw [he]
  · exact h.raiseCmdError
  · exact ⟨Status.consistent_report hb (State.headerError_value hh), fun hb' => by simp [hb] at hb'⟩
  · exact ⟨Status.consistent_of_noResult rfl rfl rfl, fun _ => (s.headerError_none_iff.mp hh).2.2⟩

theorem State.ControlOk.runClear {s : State} (h : s.ControlOk) : s.runClear.ControlOk :=
  ⟨Status.consistent_of_noResult rfl rfl rfl, h.jobFits⟩

theorem State.ControlOk.runAbort {s : State} (h : s.ControlOk) : s.runAbort.ControlOk := by
  cases hb : s.status.busy with
  | true => rw [State.runAbort_of_busy hb]; exact ⟨h.status.clearBusy, by simp⟩
  | false => rwa [State.runAbort_of_idle hb]

theorem State.ControlOk.runCommandWord {s : State} (h : s.ControlOk) (c : Command) :
    (s.runCommandWord c.word).ControlOk := by
  rw [State.runCommandWord_word]
  cases c with
  | nop => exact h
  | start => exact h.runStart
  | clear => exact h.runClear
  | abort => exact h.runAbort

theorem State.ControlOk.complete {s : State} (h : s.ControlOk) (hb : s.status.busy = true) :
    s.complete.ControlOk :=
  ⟨h.status.setDone hb, by simp⟩

theorem State.ControlOk.undisturbed {s t : State} (h : s.ControlOk) (hu : Undisturbed s t) :
    t.ControlOk := by
  refine ⟨?_, fun hb => ?_⟩
  · rcases hu.status with hs | hs <;> rw [hs]
    · exact h.status
    · exact h.status.setCmdErr
  · rw [hu.job, State.pMax_congr hu.quads]
    exact h.jobFits (hu.busy ▸ hb)

/-! ## The descriptor of a completion -/

theorem Job.descriptor_step_toNat (j : Job) : j.descriptor.step.toNat = 2 * j.width.toNat := by
  have hw := j.width.isLt
  rw [Job.descriptor, BitVec.toNat_ofNat]
  omega

/-- OUT_LEN loses no bit of a job that fits OBUF (`spec/10_state.md` R44). -/
theorem Job.descriptor_len_toNat {j : Job} {s : State} (h : j.pixels ≤ s.pMax) :
    j.descriptor.len.toNat = 2 * j.pixels := by
  have hp := s.pMax_legal.2.2
  rw [Job.descriptor, BitVec.toNat_ofNat]
  omega

theorem Job.descriptor_fits {j : Job} {s : State} (h : j.pixels ≤ s.pMax) :
    j.descriptor.Fits s.pMax :=
  ⟨⟨j.descriptor_step_toNat, (Job.descriptor_len_toNat h).trans (Nat.mul_assoc ..).symm⟩, h⟩

/-! ## The buffers -/

theorem State.bufOk_congr {s t : State} (hq : t.quads = s.quads) (hi : t.ibuf = s.ibuf)
    (ho : t.obuf = s.obuf) {sp : Space} (h : s.bufOk sp) : t.bufOk sp := by
  cases sp <;> simpa [State.bufOk, State.pMax, hq, hi, ho] using h

/-- What replaces OBUF by a canonical list within its size. -/
theorem State.bufOk_of_obuf {s t : State} (hq : t.quads = s.quads) (hi : t.ibuf = s.ibuf)
    (hwf : t.obuf.wf = true) (hwi : t.obuf.within (s.bufSize .obuf) = true) {sp : Space}
    (h : s.bufOk sp) : t.bufOk sp := by
  cases sp
  · simpa [State.bufOk, State.pMax, hq, hi] using h
  · exact ⟨hwf, (State.bufSize_congr hq .obuf).symm ▸ hwi⟩

theorem State.bufOk_complete {s : State} (hj : s.job.pixels ≤ s.pMax) (h : ∀ sp, s.bufOk sp)
    (sp : Space) : s.complete.bufOk sp := by
  obtain ⟨hwf, hwi⟩ := h .obuf
  exact State.bufOk_of_obuf (s := s) (t := s.complete) rfl rfl (State.convertedObuf_wf hwf _)
    (State.convertedObuf_within hwi (Nat.mul_le_mul_left 2 hj)) (h sp)

theorem State.bufOk_runCommandWord {s : State} (hc : s.ControlOk) (h : ∀ sp, s.bufOk sp)
    (c : Command) (sp : Space) : (s.runCommandWord c.word).bufOk sp := by
  rw [State.runCommandWord_word]
  cases c with
  | nop => exact h sp
  | clear => exact State.bufOk_congr (s := s) rfl rfl rfl (h sp)
  | start =>
    rcases s.runStart_cases with ⟨-, he⟩ | ⟨e, -, -, he⟩ | ⟨-, -, he⟩ <;> dsimp only <;> rw [he] <;>
      exact State.bufOk_congr (s := s) rfl rfl rfl (h sp)
  | abort =>
    cases hb : s.status.busy with
    | false => rw [State.runAbort_of_idle hb]; exact h sp
    | true =>
      obtain ⟨hwf, hwi⟩ := h .obuf
      rw [State.runAbort_of_busy hb]
      refine State.bufOk_of_obuf (s := s) ?_ ?_ ?_ ?_ (h sp)
      · rfl
      · rfl
      · exact State.abortedObuf_wf hwf _
      · exact State.abortedObuf_within hwi (Nat.mul_le_mul_left 2 (hc.jobFits hb))

theorem State.bufOk_storeRegister {s : State} (hc : s.ControlOk) (h : ∀ sp, s.bufOk sp) (w : Word)
    (r : Reg) (sp : Space) : (s.storeRegister w r).bufOk sp := by
  cases r
  case cmd =>
    cases hw : Command.ofWord w with
    | none =>
      rw [State.storeRegister, State.runCommandWord, hw]
      exact State.bufOk_congr (s := s) rfl rfl rfl (h sp)
    | some c =>
      obtain rfl := Command.word_of_ofWord hw
      exact State.bufOk_runCommandWord hc h c sp
  all_goals exact State.bufOk_congr (s := s) rfl rfl rfl (h sp)

theorem State.bufOk_answer {s : State} (r : Reply) {sp : Space} (h : s.bufOk sp) :
    (s.answer r).bufOk sp :=
  State.bufOk_congr (s := s) rfl rfl rfl h

/-- A word write to a place inside its buffer (`spec/20_memory.md` R64). -/
theorem State.bufOk_wordWrite {s : State} {dst : Space} {off : BitVec 24} (w : Word) (st : Strobe)
    (hin : s.wordInside dst off = true) {sp : Space} (h : s.bufOk sp) :
    (s.writeWord dst off.toNat w st).writeOkay.bufOk sp :=
  State.bufOk_answer _ (State.bufOk_writeWord dst w st sp h ((s.wordInside_iff dst off).mp hin).2)

/-- Every operation keeps both lists canonical and within their buffers. -/
theorem bufOk_of_exec {i : Instr} {s t : State} (hc : s.ControlOk) (h : ∀ sp, s.bufOk sp)
    (ht : exec i s = .next t) (sp : Space) : t.bufOk sp := by
  have hans : ∀ r : Reply, (s.answer r).bufOk sp := fun r => State.bufOk_answer r (h sp)
  have hcmd : ∀ c : Command, exec c.instr s = .next t → t.bufOk sp := by
    intro c hct
    rw [exec_command] at hct
    cases hct
    exact State.bufOk_answer _ (State.bufOk_runCommandWord hc h c sp)
  cases i with
  | nop => exact hcmd .nop ht
  | start => exact hcmd .start ht
  | clear => exact hcmd .clear ht
  | abort => exact hcmd .abort ht
  | regRd off =>
    simp only [exec, execRegRd] at ht
    split at ht <;> cases ht <;> exact hans _
  | regWr off w st =>
    simp only [exec, execRegWr] at ht
    split at ht
    · cases ht; exact hans _
    · split_ifs at ht <;> cases ht
      · exact State.bufOk_answer _ (State.bufOk_storeRegister hc h w _ sp)
      · exact hans _
  | ibufRd off | obufRd off =>
    simp only [exec, execIbufRd, execObufRd] at ht
    split_ifs at ht <;> cases ht <;> exact hans _
  | ibufWr off w st | obufWr off w st =>
    simp only [exec, execIbufWr, execObufWr] at ht
    split_ifs at ht with hin <;> cases ht
    · exact State.bufOk_wordWrite w st (Bool.and_eq_true_iff.mp hin).1 (h sp)
    · exact hans _
  | cvt px b g r =>
    simp only [exec, execCvt] at ht
    split_ifs at ht with hj hp
    cases ht
    obtain ⟨hwf, hwi⟩ := h .obuf
    have hpx : 2 * px + 1 < s.bufSize .obuf := by rw [State.bufSize_obuf]; omega
    exact State.bufOk_of_obuf (s := s) (t := s.storeSample px _) rfl rfl
      (Memory.wf_setSample _ _ hwf) (Memory.within_setSample _ hwi hpx) (h sp)

theorem bufOk_of_runTxn {x : Txn} {s t : State} (hc : s.ControlOk) (h : ∀ sp, s.bufOk sp)
    (ht : runTxn x s = .next t) (sp : Space) : t.bufOk sp := by
  unfold runTxn at ht
  split at ht
  · exact bufOk_of_exec hc h ht sp
  · cases ht
    exact State.bufOk_answer _ (h sp)

/-! ## The invariants at reset and under every step -/

/-- Reset values, in reset or released. -/
theorem State.Inv.of_afterReset {s : State} {quads : Fin 1398101} {epoch draws : Nat}
    {inReset : Bool} {events : List Event}
    (h : s = { State.afterReset quads epoch draws with inReset := inReset, events := events }) :
    s.Inv := by
  subst h
  refine .of_parts ⟨Status.consistent_of_noResult rfl rfl rfl, by simp [State.afterReset]⟩ ?_
    (fun _ => ⟨rfl, rfl⟩) fun sp => ?_
  · exact ⟨⟨rfl, rfl⟩, Nat.zero_le _⟩
  · cases sp <;> exact ⟨rfl, rfl⟩

/-- Settles O45: the reset values meet each part. -/
theorem resetMeetsTheInvariants : Obligations.ResetMeetsTheInvariants :=
  State.Inv.of_afterReset (inReset := false) (events := []) rfl

/-- What differs in the events to come, the latest answer and the count of free choices only. -/
theorem State.Inv.congr {s t : State} (h : s.Inv)
    (ht : t = { s with events := t.events, reply := t.reply, draws := t.draws }) : t.Inv := by
  rw [ht]
  exact ⟨h.busyNoResult, h.notDoneAndErr, h.errIffCode, h.codeRange, h.stepAndLen, h.outFits,
    h.jobFits, h.resetQuiet, h.ibufCanonical, h.obufCanonical⟩

theorem State.Inv.releaseReset {s : State} (h : s.Inv) : s.releaseReset.Inv :=
  .of_parts ⟨h.controlOk.status, h.jobFits⟩ h.descriptorFits (by simp)
    fun sp => State.bufOk_congr (s := s) rfl rfl rfl (h.bufOk sp)

/-- A released block keeps the invariants where its parts are kept. -/
theorem State.inv_of_released {t : State} (hr : t.inReset = false) (hc : t.ControlOk)
    (hd : t.out.Fits t.pMax) (hb : ∀ sp, t.bufOk sp) : t.Inv :=
  .of_parts hc hd (fun h => by simp [hr] at h) hb

theorem State.Inv.complete {s : State} (h : s.Inv) (hr : s.inReset = false)
    (hb : s.status.busy = true) : s.complete.Inv :=
  State.inv_of_released hr (h.controlOk.complete hb) (Job.descriptor_fits (h.jobFits hb))
    (State.bufOk_complete (h.jobFits hb) h.bufOk)

theorem State.Inv.command {s : State} (h : s.Inv) (hr : s.inReset = false) (c : Command) :
    (s.runCommandWord c.word).writeOkay.Inv := by
  obtain ⟨hq, ho, hr', -⟩ := s.runCommandWord_frame c
  refine State.Inv.congr (s := s.runCommandWord c.word) (State.inv_of_released (hr'.trans hr)
    (h.controlOk.runCommandWord c) ?_ (State.bufOk_runCommandWord h.controlOk h.bufOk c)) rfl
  rw [ho, State.pMax_congr hq]
  exact h.descriptorFits

theorem State.Inv.access {s t : State} {x : Txn} (h : s.Inv) (hr : s.inReset = false)
    (ht : runTxn x s = .next t) (hu : Undisturbed s t) : t.Inv := by
  refine State.inv_of_released (hu.inReset.trans hr) (h.controlOk.undisturbed hu) ?_
    (bufOk_of_runTxn h.controlOk h.bufOk ht)
  rw [hu.out, State.pMax_congr hu.quads]
  exact h.descriptorFits

theorem EventCase.inv {s t : State} {e : Event} (hcase : EventCase s e t) (h : s.Inv) : t.Inv := by
  cases hcase with
  | assertReset => exact State.Inv.of_afterReset rfl
  | releaseReset => exact h.releaseReset
  | duringReset => exact h.congr rfl
  | engineRests => exact h
  | completion hr hb => exact h.complete hr hb
  | command c hr => exact h.command hr c
  | access hr _ ht hu => exact h.access hr ht hu

/-- Settles O44: by the cases of the step's event, each of which keeps every part. -/
theorem stepKeepsTheInvariants : Obligations.StepKeepsTheInvariants := by
  intro s t h hstep
  exact (eventCase_of_step hstep).inv (h.congr rfl)

end Sys2Proof.Machine
end

section
/-! SUPPORT. The engine's completion and CVT's operands (`spec/42_frame.md` R127, `spec/41_rescale.md` R109). -/

namespace Sys2Proof.Machine

/-- Settles O16: both stops are CVT's tests on its index. -/
theorem cvtOutsideItsOperandsStops : Obligations.CvtOutsideItsOperandsStops := by
  intro s px b g r
  refine ⟨fun h => ?_, fun hb hj hp => ?_⟩
  · have hjob : ¬((s.status.busy && decide (px < s.job.pixels)) = true) := by simpa using h
    exact if_neg hjob
  · have hmax : ¬px < s.pMax := by omega
    simp [exec, execCvt, hb, hj, hmax]

/-- A completion leaves the bytes of OBUF above the job's samples. -/
theorem State.complete_readByte_obuf_above {s : State} {k : Nat} (h : 2 * s.job.pixels ≤ k) :
    s.complete.readByte .obuf k = s.readByte .obuf k := by
  rw [State.readByte_obuf, State.complete_obuf, State.convertedObuf_get, if_neg (by omega)]
  rfl

/-- Settles O17: the engine's turn on a running job is its completion, read field by field. -/
theorem completionEmitsTheFrame : Obligations.CompletionEmitsTheFrame := by
  intro s es hr hb hp hev
  obtain ⟨he, ht⟩ := State.nextEvent_and_tail hev
  have hstep : step s = .next (s.withEvents es).complete := by
    rw [step_eq_runEvent, he, ht]
    exact runEvent_complete_of_busy hr hb
  refine ⟨_, hstep, fun i hi => State.complete_readByte_obuf (s := s.withEvents es) hi,
    fun k hk => State.complete_readByte_obuf_above (s := s.withEvents es) hk, fun _ => rfl, rfl, rfl,
    s.job.descriptor_step_toNat, Job.descriptor_len_toNat hp, fun hc => ?_, fun hc => ?_, rfl⟩
  · exact ⟨if_pos hc, if_pos hc, if_pos hc⟩
  · have hc' : ¬s.job.copyMeta = true := by simp [hc]
    exact ⟨if_neg hc', if_neg hc', if_neg hc'⟩

end Sys2Proof.Machine
end

section
/-! SUPPORT. Registers by name (`spec/43_bus_access.md` R141, R142): what a read returns and a write stores,
once for every register, and the value of each register's fields as a word. -/

namespace Sys2Proof

/-- The number of low bits of a register that hold its field, where it is read-write (R26). -/
def Reg.storedBits : Reg → Nat
  | .ctrl => 2
  | .srcFmt => 8
  | .width | .height => 16
  | .srcLen | .inSeq | .inStampSec | .inStampNsec => 32
  | .id | .version | .cmd | .status | .outFmt | .outWidth | .outHeight | .outStep | .outLen | .outSeq
  | .outStampSec | .outStampNsec | .frameCount | .errCount | .capacity => 0

end Sys2Proof

namespace Sys2Proof.Machine

/-! ## Accesses of a register at its offset -/

theorem exec_regRd_offset (s : State) (r : Reg) :
    exec (.regRd r.offset) s = .next (s.readOkay (s.readRegister r)) := by
  simp only [exec, execRegRd, Reg.ofOffset_offset]

theorem exec_regWr_offset (s : State) (r : Reg) (w : Word) :
    exec (.regWr r.offset w 0xF) s = .next (s.storeRegister w r).writeOkay := by
  simp only [exec, execRegWr, Reg.ofOffset_offset, if_true]

/-- The answer of the port is no register. -/
@[simp] theorem State.readRegister_answer (s : State) (a : Reply) (r : Reg) :
    (s.answer a).readRegister r = s.readRegister r := by
  cases r <;> rfl

/-! ## The fields of a register as a number -/

theorem ctrlWord_toNat (c : Ctrl) :
    (ctrlWord c).toNat = c.irqEn.toNat + 2 * c.metaCopy.toNat := by
  simp only [ctrlWord, toNat_append_add, BitVec.toNat_ofBool, BitVec.toNat_ofNat]
  omega

theorem statusWord_toNat (f : Status) :
    (statusWord f).toNat = f.busy.toNat + 2 * f.done.toNat + 4 * f.err.toNat + 8 * f.cmdErr.toNat
      + 256 * f.errCode.toNat := by
  simp only [statusWord, toNat_append_add, BitVec.toNat_ofBool, BitVec.toNat_ofNat]
  omega

/-- No bit of P_MAX is lost in CAPACITY (`spec/10_state.md` R50). -/
theorem State.capacity_toNat (s : State) : (s.readRegister .capacity).toNat = s.pMax := by
  have hp := s.pMax_legal.2.2
  rw [State.readRegister, BitVec.toNat_ofNat]
  omega

/-- A read of a register, given its value as a number. -/
theorem exec_regRd_value (s : State) (r : Reg) {n : Nat} (h : (s.readRegister r).toNat = n) :
    ∃ v : Word, v.toNat = n ∧
      exec (.regRd r.offset) s = .next { s with reply := some (.read .okay v) } :=
  ⟨s.readRegister r, h, exec_regRd_offset s r⟩

/-- Settles O30. -/
theorem regReadReturnsTheConstants : Obligations.RegReadReturnsTheConstants := fun s =>
  ⟨exec_regRd_offset s .id, exec_regRd_offset s .version, exec_regRd_offset s .outFmt,
    exec_regRd_value s .capacity s.capacity_toNat⟩

/-- Settles O31: register by register; a narrow field keeps its value at the width of a word. -/
theorem regReadReturnsTheFields : Obligations.RegReadReturnsTheFields := by
  intro s
  have wide : ∀ {n : Nat} (x : BitVec n), n ≤ 32 → (x.setWidth 32).toNat = x.toNat :=
    fun _ hn => BitVec.toNat_setWidth_of_le hn
  exact ⟨exec_regRd_value s .ctrl (ctrlWord_toNat s.ctrl),
    exec_regRd_value s .status (statusWord_toNat s.status),
    exec_regRd_value s .srcFmt (wide s.header.fmt (by decide)),
    exec_regRd_value s .width (wide s.header.width (by decide)),
    exec_regRd_value s .height (wide s.header.height (by decide)),
    exec_regRd_value s .srcLen rfl, exec_regRd_value s .inSeq rfl,
    exec_regRd_value s .inStampSec rfl, exec_regRd_value s .inStampNsec rfl,
    exec_regRd_value s .outWidth (wide s.out.width (by decide)),
    exec_regRd_value s .outHeight (wide s.out.height (by decide)),
    exec_regRd_value s .outStep (wide s.out.step (by decide)),
    exec_regRd_value s .outLen rfl, exec_regRd_value s .outSeq rfl,
    exec_regRd_value s .outStampSec rfl, exec_regRd_value s .outStampNsec rfl,
    exec_regRd_value s .frameCount rfl, exec_regRd_value s .errCount rfl⟩

/-! ## Accesses of every offset -/

/-- Settles O32: an access completes exactly where its offset names a register. -/
theorem regAccessesCompleteOrRaiseBusError : Obligations.RegAccessesCompleteOrRaiseBusError := by
  intro s off w st
  have hmap := Reg.ofOffset_none_iff off
  cases hr : Reg.ofOffset off with
  | none =>
    have hoff : ¬(off.toNat % 4 = 0 ∧ off.toNat ≤ 0x058) := hmap.mp hr
    refine ⟨fun h => absurd h hoff, fun _ => ?_, fun h => absurd ⟨h.1, h.2.1⟩ hoff, fun _ => ?_⟩
    · simp only [exec, execRegRd, hr]; rfl
    · simp only [exec, execRegWr, hr]; rfl
  | some r =>
    have hoff : off.toNat % 4 = 0 ∧ off.toNat ≤ 0x058 := by
      by_contra h
      simp [hmap.mpr h] at hr
    obtain rfl := Reg.offset_of_ofOffset hr
    refine ⟨fun _ => ⟨_, exec_regRd_offset s r⟩, fun h => absurd hoff h, ?_, fun h => ?_⟩
    · rintro ⟨-, -, rfl⟩
      exact ⟨_, exec_regWr_offset s r w, rfl⟩
    · have hst : st ≠ 0xF := fun h' => h ⟨hoff.1, hoff.2, h'⟩
      simp only [exec, execRegWr, hr, if_neg hst]; rfl

/-! ## Writes -/

/-- Settles O28: REG_WR of CMD and the command are both the effect of its word. -/
theorem cmdRunsTheCommandOfItsWord : Obligations.CmdRunsTheCommandOfItsWord := fun s =>
  ⟨fun c => (exec_regWr_offset s .cmd c.word).trans (exec_command c s).symm,
    exec_regRd_offset s .cmd⟩

/-- A read-only register stores nothing (`spec/10_state.md` R26). -/
theorem exec_regWr_readOnly (s : State) (w : Word) (r : Reg) (h : s.storeRegister w r = s) :
    exec (.regWr r.offset w 0xF) s = .next { s with reply := some (.write .okay) } := by
  rw [exec_regWr_offset, h]
  rfl

/-- Settles O33: register by register. -/
theorem regWriteStoresTheFields : Obligations.RegWriteStoresTheFields := by
  intro s w
  refine ⟨exec_regWr_offset s .ctrl w, exec_regWr_offset s .srcFmt w, exec_regWr_offset s .width w,
    exec_regWr_offset s .height w, exec_regWr_offset s .srcLen w, exec_regWr_offset s .inSeq w,
    exec_regWr_offset s .inStampSec w, exec_regWr_offset s .inStampNsec w, ?_⟩
  simp only [List.forall_mem_cons]
  exact ⟨exec_regWr_readOnly s w .id rfl, exec_regWr_readOnly s w .version rfl,
    exec_regWr_readOnly s w .status rfl, exec_regWr_readOnly s w .outFmt rfl,
    exec_regWr_readOnly s w .outWidth rfl, exec_regWr_readOnly s w .outHeight rfl,
    exec_regWr_readOnly s w .outStep rfl, exec_regWr_readOnly s w .outLen rfl,
    exec_regWr_readOnly s w .outSeq rfl, exec_regWr_readOnly s w .outStampSec rfl,
    exec_regWr_readOnly s w .outStampNsec rfl, exec_regWr_readOnly s w .frameCount rfl,
    exec_regWr_readOnly s w .errCount rfl, exec_regWr_readOnly s w .capacity rfl,
    fun _ h => absurd h List.not_mem_nil⟩

/-! ## Read after write -/

/-- A register other than CMD stores into its own fields only: no other register reads otherwise. -/
theorem State.readRegister_storeRegister_of_ne (s : State) (w : Word) {r r' : Reg} (hr : r ≠ .cmd)
    (hne : r' ≠ r) : (s.storeRegister w r).readRegister r' = s.readRegister r' := by
  cases r
  case cmd => exact absurd rfl hr
  case ctrl | srcFmt | width | height | srcLen | inSeq | inStampSec | inStampNsec =>
    cases r' <;> first | rfl | exact absurd rfl hne
  all_goals rfl

/-- A mask of the low bits as a number. -/
theorem and_lowMask_toNat (w : Word) {len : Nat} (h : len ≤ 32) :
    (w &&& BitVec.ofNat 32 (2 ^ len - 1)).toNat = w.toNat % 2 ^ len := by
  have hpos := Nat.two_pow_pos len
  have hpow : 2 ^ len ≤ 2 ^ 32 := Nat.pow_le_pow_right (by decide) h
  rw [BitVec.toNat_and, BitVec.toNat_ofNat, Nat.mod_eq_of_lt (by omega),
    Nat.and_two_pow_sub_one_eq_mod]

/-- A field in the low bits of a register, as it reads back. -/
theorem lowField_toNat (w : Word) {len : Nat} (h : len ≤ 32) :
    ((w.extractLsb' 0 len).setWidth 32).toNat = w.toNat % 2 ^ len := by
  rw [BitVec.toNat_setWidth_of_le h, BitVec.extractLsb'_toNat, Nat.shiftRight_zero]

/-- CTRL reads back its two bits (`spec/10_state.md` R29). -/
theorem ctrlWord_ctrlOfWord_toNat (w : Word) : (ctrlWord (ctrlOfWord w)).toNat = w.toNat % 2 ^ 2 := by
  rw [ctrlWord_toNat]
  simp only [ctrlOfWord, BitVec.getLsbD, Nat.toNat_testBit]
  omega

/-- A read-write register reads back its field and zero above it. -/
theorem State.readRegister_storeRegister_toNat (s : State) (w : Word) {r : Reg}
    (hr : r.storedBits ≠ 0) :
    ((s.storeRegister w r).readRegister r).toNat = w.toNat % 2 ^ r.storedBits := by
  cases r
  case ctrl => exact ctrlWord_ctrlOfWord_toNat w
  case srcFmt | width | height => exact lowField_toNat w (by decide)
  case srcLen | inSeq | inStampSec | inStampNsec => exact (Nat.mod_eq_of_lt w.isLt).symm
  all_goals exact absurd rfl hr

theorem State.readRegister_storeRegister_same (s : State) (w : Word) {r : Reg}
    (hr : r.storedBits ≠ 0) :
    (s.storeRegister w r).readRegister r = w &&& BitVec.ofNat 32 (2 ^ r.storedBits - 1) := by
  have hle : r.storedBits ≤ 32 := by cases r <;> decide
  apply BitVec.eq_of_toNat_eq
  rw [s.readRegister_storeRegister_toNat w hr, and_lowMask_toNat w hle]

/-- Settles O34: the masks are those of the registers' fields; then the read after the write, and the frame
of the write. -/
theorem registerWriteIsReadBack : Obligations.RegisterWriteIsReadBack := by
  intro s w r mask hmem
  have hmasks : ∀ p ∈ ([(.ctrl, 0x00000003), (.srcFmt, 0x000000FF), (.width, 0x0000FFFF),
      (.height, 0x0000FFFF), (.srcLen, 0xFFFFFFFF), (.inSeq, 0xFFFFFFFF), (.inStampSec, 0xFFFFFFFF),
      (.inStampNsec, 0xFFFFFFFF)] : List (Reg × Word)),
      p.1.storedBits ≠ 0 ∧ p.2 = BitVec.ofNat 32 (2 ^ p.1.storedBits - 1) := by decide
  have hr : r.storedBits ≠ 0 ∧ mask = BitVec.ofNat 32 (2 ^ r.storedBits - 1) :=
    hmasks (r, mask) hmem
  obtain ⟨hbits, rfl⟩ := hr
  have hcmd : r ≠ .cmd := by
    rintro rfl
    exact hbits rfl
  refine ⟨_, exec_regWr_offset s r w, ?_, fun r' hne => ?_⟩
  · rw [exec_regRd_offset, State.writeOkay_eq, State.readRegister_answer,
      s.readRegister_storeRegister_same w hbits]
    rfl
  · rw [State.writeOkay_eq, State.readRegister_answer]
    exact s.readRegister_storeRegister_of_ne w hcmd hne

end Sys2Proof.Machine
end

section
/-! SUPPORT. The interrupt output (`spec/10_state.md` R55) and the reset values (`spec/70_reset_and_hazards.md`
R179 to R181). -/

namespace Sys2Proof

/-- A register's value at reset, of a block with `pMax` pixels (R179). -/
def Reg.resetValue (pMax : Nat) : Reg → Word
  | .id => 0x4C554D41
  | .version => 0x00010000
  | .ctrl => 0x00000002
  | .outFmt => 0x00000010
  | .capacity => BitVec.ofNat 32 pMax
  | .cmd | .status | .srcFmt | .width | .height | .srcLen | .inSeq | .inStampSec | .inStampNsec
  | .outWidth | .outHeight | .outStep | .outLen | .outSeq | .outStampSec | .outStampNsec
  | .frameCount | .errCount => 0

end Sys2Proof

namespace Sys2Proof.Machine

theorem State.irq_iff (s : State) :
    s.irq = true ↔ s.ctrl.irqEn = true ∧ (s.status.done = true ∨ s.status.err = true) := by
  simp [State.irq]

/-- The answer of the port does not drive irq. -/
@[simp] theorem State.irq_answer (s : State) (r : Reply) : (s.answer r).irq = s.irq := rfl

/-- A START that is no command error leaves DONE clear, so that irq follows ERR. -/
theorem State.irq_runStart {s : State} (hb : s.status.busy = false) :
    s.runStart.irq = (s.ctrl.irqEn && s.runStart.status.err) := by
  rcases s.runStart_cases with ⟨hb', -⟩ | ⟨e, -, -, h⟩ | ⟨-, -, h⟩
  · simp [hb] at hb'
  · simp [h, State.irq]
  · simp [h, State.irq]

/-- Settles O52: clause by clause, each event's effect on CTRL and STATUS. -/
theorem irqFollowsItsRegisters : Obligations.IrqFollowsItsRegisters := by
  intro s
  refine ⟨s.irq_iff, fun _ => ?_, fun w => ⟨_, exec_regWr_offset s .ctrl w, rfl⟩, ⟨_, rfl, ?_⟩,
    fun hb => ⟨_, rfl, State.irq_runStart hb⟩, fun w hw => ⟨_, exec_regWr_offset s .cmd w, ?_⟩,
    s.irq_answer _, s.irq_answer _⟩
  · simp [State.irq]
  · simp [State.irq, State.writeOkay_eq]
  · have hnone : Command.ofWord w = none := (Command.ofWord_none_iff w).mpr hw
    simp only [State.storeRegister, State.runCommandWord, hnone]
    rfl

theorem State.readRegister_afterReset (quads : Fin 1398101) (epoch draws : Nat) (r : Reg) :
    (State.afterReset quads epoch draws).readRegister r =
      r.resetValue (State.afterReset quads epoch draws).pMax := by
  cases r
  case ctrl => exact (by decide : ctrlWord { irqEn := false, metaCopy := true } = 0x00000002)
  case status =>
    exact (by decide :
      statusWord { busy := false, done := false, err := false, cmdErr := false, errCode := 0 } = 0)
  all_goals rfl

/-- The reset level and the events to come are no registers. -/
theorem State.readRegister_assertReset (s : State) (r : Reg) :
    s.assertReset.readRegister r = r.resetValue s.pMax := by
  rw [show s.pMax = (State.afterReset s.quads (s.epoch + 1) s.draws).pMax from rfl,
    ← State.readRegister_afterReset]
  cases r <;> rfl

/-- Settles O53: the reset values register by register; an unlisted byte reads as its fresh draw. -/
theorem resetGivesEveryRegisterItsValue : Obligations.ResetGivesEveryRegisterItsValue := by
  refine ⟨⟨fun r => ?_, rfl, rfl⟩, fun s es hev => ?_⟩
  · rw [State.reset, State.readRegister_afterReset]
    cases r <;> rfl
  · have hstep : step s = .next (s.withEvents es).assertReset := by
      rw [step_eq_runEvent, State.nextEvent, hev]
      rfl
    refine ⟨_, hstep, ⟨fun r => ?_, rfl, rfl⟩, rfl, rfl, rfl, fun _ => ⟨rfl, rfl⟩⟩
    rw [State.readRegister_assertReset]
    cases r <;> rfl

end Sys2Proof.Machine
end

section
/-! SUPPORT. Word accesses of a buffer (`spec/43_bus_access.md` R143 to R146): where one is allowed, and what a
read returns and a write stores, once for both buffers. -/

namespace Sys2Proof.Machine

/-! ## The lanes of a word (`spec/20_memory.md` R63) -/

theorem laneByte_toNat (w : Word) (j : Nat) : (laneByte w j).toNat = w.toNat / 2 ^ (8 * j) % 256 :=
  toNat_extract_div ..

theorem wordOf_toNat (b0 b1 b2 b3 : Byte) :
    (wordOf b0 b1 b2 b3).toNat =
      b0.toNat + 2 ^ 8 * b1.toNat + 2 ^ 16 * b2.toNat + 2 ^ 24 * b3.toNat := by
  simp only [wordOf, toNat_append_add]
  omega

theorem laneByte_wordOf (b : Nat → Byte) {j : Nat} (hj : j < 4) :
    laneByte (wordOf (b 0) (b 1) (b 2) (b 3)) j = b j := by
  have h0 := (b 0).isLt
  have h1 := (b 1).isLt
  have h2 := (b 2).isLt
  have h3 := (b 3).isLt
  apply BitVec.eq_of_toNat_eq
  rw [laneByte_toNat, wordOf_toNat]
  interval_cases j <;> omega

theorem wordOf_laneByte (w : Word) :
    wordOf (laneByte w 0) (laneByte w 1) (laneByte w 2) (laneByte w 3) = w := by
  have hw := w.isLt
  apply BitVec.eq_of_toNat_eq
  simp only [wordOf_toNat, laneByte_toNat]
  omega

theorem State.laneByte_readWord (s : State) (sp : Space) (off : Nat) {j : Nat} (hj : j < 4) :
    laneByte (s.readWord sp off) j = s.readByte sp (off + j) :=
  laneByte_wordOf (fun i => s.readByte sp (off + i)) hj

/-- A full strobe enables every lane. -/
theorem fullStrobe_getLsbD {j : Nat} (hj : j < 4) : (0xF : Strobe).getLsbD j = true := by
  interval_cases j <;> rfl

theorem State.readByte_writeWord_lane (s : State) (sp : Space) (off : Nat) (w : Word) (st : Strobe)
    {j : Nat} (hj : j < 4) :
    (s.writeWord sp off w st).readByte sp (off + j) =
      if st.getLsbD j = true then laneByte w j else s.readByte sp (off + j) := by
  have hin : off ≤ off + j ∧ off + j < off + 4 := by omega
  rw [State.readByte_writeWord, Nat.add_sub_cancel_left]
  simp [hin]

/-- No byte outside the word changes. -/
theorem State.readByte_writeWord_outside (s : State) {sp sp' : Space} {off x : Nat} (w : Word) (st : Strobe)
    (h : sp ≠ sp' ∨ x < off ∨ off + 4 ≤ x) :
    (s.writeWord sp off w st).readByte sp' x = s.readByte sp' x := by
  rw [State.readByte_writeWord, if_neg]
  rintro ⟨hsp, hlo, hhi, -⟩
  rcases h with h | h | h
  · exact h hsp
  all_goals omega

/-- A full word is read back as it was written. -/
theorem State.readWord_writeWord (s : State) (sp : Space) (off : Nat) (w : Word) :
    (s.writeWord sp off w 0xF).readWord sp off = w := by
  have lane : ∀ j, j < 4 → (s.writeWord sp off w 0xF).readByte sp (off + j) = laneByte w j := by
    intro j hj
    rw [State.readByte_writeWord_lane s sp off w 0xF hj, if_pos (fullStrobe_getLsbD hj)]
  have h0 := lane 0 (by decide)
  rw [Nat.add_zero] at h0
  rw [State.readWord, h0, lane 1 (by decide), lane 2 (by decide), lane 3 (by decide), wordOf_laneByte]

/-- The state with other bytes in one buffer. -/
def State.withBuffer (s : State) : Space → Memory → State
  | .ibuf, m => { s with ibuf := m }
  | .obuf, m => { s with obuf := m }

/-- A word write changes one buffer only. -/
theorem State.writeWord_eq_withBuffer (s : State) (sp : Space) (off : Nat) (w : Word) (st : Strobe) :
    ∃ m, s.writeWord sp off w st = s.withBuffer sp m := by
  obtain ⟨m, hm⟩ := s.writeWord_frame sp off w st
  refine ⟨m, hm.trans ?_⟩
  cases sp <;> rfl

theorem State.readWord_answer (s : State) (r : Reply) (sp : Space) (off : Nat) :
    (s.answer r).readWord sp off = s.readWord sp off := by
  simp only [State.readWord, State.readByte_answer]

/-! ## Where an access is allowed -/

/-- The read of a buffer's word. -/
def Space.rd : Space → BitVec 24 → Instr
  | .ibuf, off => .ibufRd off
  | .obuf, off => .obufRd off

/-- The write of a buffer's word. -/
def Space.wr : Space → BitVec 24 → Word → Strobe → Instr
  | .ibuf, off, w, st => .ibufWr off w st
  | .obuf, off, w, st => .obufWr off w st

/-- The word lies inside the buffer, and no job forbids the access: reads of IBUF alone are allowed while BUSY
(`spec/20_memory.md` R70, R71). -/
def State.accessOpen (s : State) (sp : Space) (isWrite : Bool) (off : BitVec 24) : Bool :=
  s.wordInside sp off && (!(isWrite || sp == .obuf) || !s.status.busy)

theorem State.accessOpen_iff (s : State) (sp : Space) (isWrite : Bool) (off : BitVec 24) :
    s.accessOpen sp isWrite off = true ↔ off.toNat % 4 = 0 ∧ off.toNat + 4 ≤ s.bufSize sp ∧
      (isWrite = true ∨ sp = .obuf → s.status.busy = false) := by
  simp [State.accessOpen, s.wordInside_iff sp off, and_assoc, imp_iff_not_or]

theorem State.accessOpen_ibufRd_iff (s : State) (off : BitVec 24) :
    s.accessOpen .ibuf false off = true ↔ off.toNat % 4 = 0 ∧ off.toNat + 4 ≤ 3 * s.pMax := by
  simp [State.accessOpen_iff]

theorem State.accessOpen_obufRd_iff (s : State) (off : BitVec 24) :
    s.accessOpen .obuf false off = true ↔
      off.toNat % 4 = 0 ∧ off.toNat + 4 ≤ 2 * s.pMax ∧ s.status.busy = false := by
  simp [State.accessOpen_iff]

theorem State.accessOpen_write_iff (s : State) (sp : Space) (off : BitVec 24) :
    s.accessOpen sp true off = true ↔
      off.toNat % 4 = 0 ∧ off.toNat + 4 ≤ s.bufSize sp ∧ s.status.busy = false := by
  simp [State.accessOpen_iff]

/-- The tests of the two reads (R143, R145). -/
theorem exec_rd_eq (s : State) (sp : Space) (off : BitVec 24) :
    exec (sp.rd off) s = .next (if s.accessOpen sp false off then s.readOkay (s.readWord sp off.toNat)
      else s.raiseBusError false) := by
  cases sp
  · simp [Space.rd, exec, execIbufRd, State.accessOpen]
  · rfl

/-- The tests of the two writes (R144, R146). -/
theorem exec_wr_eq (s : State) (sp : Space) (off : BitVec 24) (w : Word) (st : Strobe) :
    exec (sp.wr off w st) s = .next (if s.accessOpen sp true off then
      (s.writeWord sp off.toNat w st).writeOkay else s.raiseBusError true) := by
  cases sp <;> rfl

section
variable {s : State} {sp : Space} {off : BitVec 24}

theorem exec_rd_of_open (h : s.accessOpen sp false off = true) :
    exec (sp.rd off) s = .next (s.readOkay (s.readWord sp off.toNat)) := by
  rw [exec_rd_eq, if_pos h]

theorem exec_rd_of_closed (h : ¬s.accessOpen sp false off = true) :
    exec (sp.rd off) s = .next (s.raiseBusError false) := by
  rw [exec_rd_eq, if_neg h]

theorem exec_wr_of_open (w : Word) (st : Strobe) (h : s.accessOpen sp true off = true) :
    exec (sp.wr off w st) s = .next (s.writeWord sp off.toNat w st).writeOkay := by
  rw [exec_wr_eq, if_pos h]

theorem exec_wr_of_closed (w : Word) (st : Strobe) (h : ¬s.accessOpen sp true off = true) :
    exec (sp.wr off w st) s = .next (s.raiseBusError true) := by
  rw [exec_wr_eq, if_neg h]

/-- A read returns the buffer's bytes, lane by lane. -/
theorem exec_rd_lanes (h : s.accessOpen sp false off = true) :
    ∃ v : Word, exec (sp.rd off) s = .next { s with reply := some (.read .okay v) } ∧
      ∀ j, j < 4 → laneByte v j = s.readByte sp (off.toNat + j) :=
  ⟨_, exec_rd_of_open h, fun _ hj => s.laneByte_readWord sp off.toNat hj⟩

/-- The state after a write: each enabled lane and no other byte of either buffer. -/
theorem exec_wr_lanes (w : Word) (st : Strobe) (h : s.accessOpen sp true off = true) :
    ∃ t : State, exec (sp.wr off w st) s = .next t ∧
      (∀ j, j < 4 → t.readByte sp (off.toNat + j) =
        if st.getLsbD j = true then laneByte w j else s.readByte sp (off.toNat + j)) ∧
      (∀ sp' a, sp ≠ sp' ∨ a < off.toNat ∨ off.toNat + 4 ≤ a → t.readByte sp' a = s.readByte sp' a) ∧
      ∃ m, t = (s.withBuffer sp m).writeOkay := by
  refine ⟨_, exec_wr_of_open w st h, fun j hj => ?_, fun sp' a ha => ?_, ?_⟩
  · rw [State.writeOkay_eq, State.readByte_answer, State.readByte_writeWord_lane s sp _ w st hj]
  · rw [State.writeOkay_eq, State.readByte_answer, State.readByte_writeWord_outside s w st ha]
  · obtain ⟨m, hm⟩ := s.writeWord_eq_withBuffer sp off.toNat w st
    exact ⟨m, congrArg State.writeOkay hm⟩

/-- A full word written is read back, as a read is allowed where a write is. -/
theorem exec_rd_after_wr (w : Word) (h : s.accessOpen sp true off = true) :
    ∃ t, exec (sp.wr off w 0xF) s = .next t ∧
      exec (sp.rd off) t = .next { t with reply := some (.read .okay w) } := by
  refine ⟨_, exec_wr_of_open w 0xF h, ?_⟩
  obtain ⟨halign, hfit, hidle⟩ := (s.accessOpen_write_iff sp off).mp h
  obtain ⟨m, hm⟩ := s.writeWord_eq_withBuffer sp off.toNat w 0xF
  have hopen : (s.writeWord sp off.toNat w 0xF).writeOkay.accessOpen sp false off = true := by
    rw [hm, State.accessOpen_iff]
    cases sp <;> exact ⟨halign, hfit, fun _ => hidle⟩
  rw [exec_rd_of_open hopen, State.writeOkay_eq, State.readWord_answer, State.readWord_writeWord]
  rfl

end

/-! ## The statements -/

/-- Settles O35: a read of IBUF is allowed wherever the word lies inside. -/
theorem ibufReadReturnsItsFourBytes : Obligations.IbufReadReturnsItsFourBytes := by
  intro s off
  rw [← s.accessOpen_ibufRd_iff off]
  exact ⟨exec_rd_lanes (sp := .ibuf), exec_rd_of_closed (sp := .ibuf)⟩

/-- Settles O36: the lanes of an allowed write, and IBUF as all that it changes. -/
theorem ibufWriteStoresTheEnabledLanes : Obligations.IbufWriteStoresTheEnabledLanes := by
  intro s off w st
  rw [← s.bufSize_ibuf, ← s.accessOpen_write_iff .ibuf off]
  refine ⟨fun h => ?_, exec_wr_of_closed (sp := .ibuf) w st⟩
  obtain ⟨t, ht, hlane, hother, m, rfl⟩ := exec_wr_lanes w st h
  exact ⟨_, ht, hlane, fun a ha => hother .ibuf a (.inr ha), fun a => hother .obuf a (.inl (by decide)), rfl⟩

/-- Settles O37: a read of OBUF is allowed where the word lies inside, while IDLE. -/
theorem obufReadReturnsItsFourBytes : Obligations.ObufReadReturnsItsFourBytes := by
  intro s off
  rw [← s.accessOpen_obufRd_iff off]
  exact ⟨exec_rd_lanes (sp := .obuf), exec_rd_of_closed (sp := .obuf)⟩

/-- Settles O38: the lanes of an allowed write, and OBUF as all that it changes. -/
theorem obufWriteStoresTheEnabledLanes : Obligations.ObufWriteStoresTheEnabledLanes := by
  intro s off w st
  rw [← s.bufSize_obuf, ← s.accessOpen_write_iff .obuf off]
  refine ⟨fun h => ?_, exec_wr_of_closed (sp := .obuf) w st⟩
  obtain ⟨t, ht, hlane, hother, m, rfl⟩ := exec_wr_lanes w st h
  exact ⟨_, ht, hlane, fun a ha => hother .obuf a (.inr ha), fun a => hother .ibuf a (.inl (by decide)), rfl⟩

/-- Settles O39: read after a full-word write, in each buffer. -/
theorem aWordWrittenIsReadBack : Obligations.AWordWrittenIsReadBack := by
  intro s off w halign hidle
  have hopen : ∀ sp, off.toNat + 4 ≤ s.bufSize sp → s.accessOpen sp true off = true :=
    fun sp hfit => (s.accessOpen_write_iff sp off).mpr ⟨halign, hfit, hidle⟩
  exact ⟨fun h => exec_rd_after_wr (sp := .ibuf) w (hopen .ibuf h),
    fun h => exec_rd_after_wr (sp := .obuf) w (hopen .obuf h)⟩

end Sys2Proof.Machine
end

section
/-! SUPPORT. A transaction by the window its address lies in (`spec/20_memory.md` R61): what it does, when it is
answered SLVERR (R66), and that a read changes nothing but the answer (R68). -/

namespace Sys2Proof

/-! ## The windows (`spec/20_memory.md` R61) -/

/-- The address of a transaction, `TK[25:0]` (`spec/30_encoding.md` R83). -/
def Txn.addr (t : Txn) : Addr := t.key.extractLsb' 0 26

theorem Txn.addr_toNat (t : Txn) : t.addr.toNat = t.key.toNat % 2 ^ 26 := by
  rw [Txn.addr, toNat_extract_div]
  omega

/-- The address lies in the register region. -/
def Txn.inRegisters (t : Txn) : Prop := t.addr.toNat < 0x1000

/-- The address lies in the window of a buffer. -/
def Txn.inWindow (t : Txn) (sp : Machine.Space) : Prop :=
  Machine.windowBase sp ≤ t.addr.toNat ∧ t.addr.toNat < Machine.windowBase sp + 2 ^ 24

theorem Txn.not_inRegisters_of_inWindow {t : Txn} {sp : Machine.Space} (h : t.inWindow sp) :
    ¬t.inRegisters := by
  cases sp <;> simp only [Txn.inWindow, Txn.inRegisters, Machine.windowBase] at h ⊢ <;> omega

theorem Txn.inWindow_unique {t : Txn} {sp sp' : Machine.Space} (h : t.inWindow sp) (h' : t.inWindow sp') :
    sp = sp' := by
  cases sp <;> cases sp' <;> simp only [Txn.inWindow, Machine.windowBase] at h h' <;> first | rfl | omega

theorem Txn.regOffset_of_inRegisters {t : Txn} (h : t.inRegisters) : t.regOffset.toNat = t.addr.toNat := by
  rw [Txn.inRegisters] at h
  have ha := t.addr_toNat
  rw [t.regOffset_toNat]
  omega

theorem Txn.bufOffset_of_inWindow {t : Txn} {sp : Machine.Space} (h : t.inWindow sp) :
    t.bufOffset.toNat = t.addr.toNat - Machine.windowBase sp := by
  have ha := t.addr_toNat
  rw [t.bufOffset_toNat]
  cases sp <;> simp only [Txn.inWindow, Machine.windowBase] at h ⊢ <;> omega

end Sys2Proof

namespace Sys2Proof.Machine

/-! ## What a transaction runs, by its window (`spec/30_encoding.md` R83) -/

/-- In the register region it is a register access; a command is one of them (`spec/10_state.md` R31). -/
theorem runTxn_of_inRegisters {t : Txn} (h : t.inRegisters) (s : State) :
    runTxn t s = exec (if t.isWrite then .regWr t.regOffset t.wdata t.wstrb else .regRd t.regOffset) s := by
  rw [Txn.inRegisters, t.addr_toNat] at h
  rw [runTxn, decode_bus_eq, if_pos (by omega), if_pos (by omega)]
  simp only [← t.isWrite_iff]
  split_ifs
  · exact exec_decodeRegWrite ..
  · rfl

theorem runTxn_of_inWindow {t : Txn} {sp : Space} (h : t.inWindow sp) (s : State) :
    runTxn t s = exec (if t.isWrite then sp.wr t.bufOffset t.wdata t.wstrb else sp.rd t.bufOffset) s := by
  rw [Txn.inWindow, t.addr_toNat] at h
  rw [runTxn, decode_bus_eq]
  simp only [← t.isWrite_iff]
  cases sp <;> simp only [windowBase] at h
  · rw [if_neg (by omega), if_pos (by omega)]
    split_ifs <;> rfl
  · rw [if_neg (by omega), if_neg (by omega), if_pos (by omega)]
    split_ifs <;> rfl

/-- In no window the key selects no operation (R91). -/
theorem runTxn_of_unmapped {t : Txn} (hr : ¬t.inRegisters) (hw : ∀ sp, ¬t.inWindow sp) (s : State) :
    runTxn t s = .next (s.raiseBusError t.isWrite) := by
  have hi := hw .ibuf
  have ho := hw .obuf
  simp only [Txn.inRegisters, Txn.inWindow, windowBase, t.addr_toNat] at hr hi ho
  rw [runTxn, decode_bus_eq]
  split_ifs <;> first | rfl | omega

/-! ## The causes of BusError, by window (`spec/20_memory.md` R66) -/

theorem State.busErrorCause_iff (s : State) (t : Txn) :
    s.busErrorCause t ↔
      t.addr.toNat % 4 ≠ 0
      ∨ (¬t.inRegisters ∧ ¬t.inWindow .ibuf ∧ ¬t.inWindow .obuf) ∨ (t.inRegisters ∧ 0x058 < t.addr.toNat)
      ∨ (t.inWindow .ibuf ∧ s.bufSize .ibuf < t.addr.toNat - windowBase .ibuf + 4)
      ∨ (t.inWindow .obuf ∧ s.bufSize .obuf < t.addr.toNat - windowBase .obuf + 4)
      ∨ (t.inRegisters ∧ t.isWrite = true ∧ t.wstrb ≠ 0xF)
      ∨ (t.inWindow .ibuf ∧ t.isWrite = true ∧ s.status.busy = true)
      ∨ (t.inWindow .obuf ∧ s.status.busy = true) :=
  Iff.rfl

theorem State.busErrorCause_of_inRegisters (s : State) {t : Txn} (h : t.inRegisters) :
    s.busErrorCause t ↔ ¬(t.regOffset.toNat % 4 = 0 ∧ t.regOffset.toNat ≤ 0x058 ∧
      (t.isWrite = true → t.wstrb = 0xF)) := by
  have hw : ∀ sp, ¬t.inWindow sp := fun sp hsp => Txn.not_inRegisters_of_inWindow hsp h
  simp only [s.busErrorCause_iff, h, hw, Txn.regOffset_of_inRegisters h]
  grind

theorem State.busErrorCause_of_inWindow (s : State) {t : Txn} {sp : Space} (h : t.inWindow sp) :
    s.busErrorCause t ↔ ¬s.accessOpen sp t.isWrite t.bufOffset = true := by
  have hr := Txn.not_inRegisters_of_inWindow h
  have halign : (t.addr.toNat - windowBase sp) % 4 = 0 ↔ t.addr.toNat % 4 = 0 := by
    cases sp <;> simp only [Txn.inWindow, windowBase] at h ⊢ <;> omega
  rw [s.busErrorCause_iff, s.accessOpen_iff, Txn.bufOffset_of_inWindow h, halign]
  cases sp
  · have ho : ¬t.inWindow .obuf := fun ho => by cases Txn.inWindow_unique h ho
    simp only [hr, h, ho]
    grind
  · have hi : ¬t.inWindow .ibuf := fun hi => by cases Txn.inWindow_unique h hi
    simp only [hr, h, hi]
    grind

/-! ## The answer of a transaction -/

/-- A transaction without a BusError: a read answers its data and changes nothing else. -/
inductive Completes (s : State) : Bool → Host.Outcome State Fault Refusal → Prop where
  | read (v : Word) : Completes s false (.next (s.readOkay v))
  | write {u : State} (h : u.reply = some (.write .okay)) : Completes s true (.next u)

theorem Completes.read_eq {s : State} {isWrite : Bool} {o : Host.Outcome State Fault Refusal}
    (h : Completes s isWrite o) (hr : isWrite = false) : ∃ v, o = .next (s.readOkay v) := by
  cases h with
  | read v => exact ⟨v, rfl⟩
  | write => cases hr

theorem Completes.write_eq {s : State} {isWrite : Bool} {o : Host.Outcome State Fault Refusal}
    (h : Completes s isWrite o) (hw : isWrite = true) :
    ∃ u, o = .next u ∧ u.reply = some (.write .okay) := by
  cases h with
  | read => cases hw
  | write h => exact ⟨_, rfl, h⟩

/-- A transaction raises BusError where it has a cause, and completes where it has none. -/
def State.answersByCause (s : State) (t : Txn) : Prop :=
  (s.busErrorCause t → runTxn t s = .next (s.raiseBusError t.isWrite)) ∧
  (¬s.busErrorCause t → Completes s t.isWrite (runTxn t s))

theorem State.answersByCause_of_inRegisters (s : State) {t : Txn} (h : t.inRegisters) :
    s.answersByCause t := by
  obtain ⟨hrd, hrd', hwr, hwr'⟩ :=
    regAccessesCompleteOrRaiseBusError s t.regOffset t.wdata t.wstrb
  rw [State.answersByCause, s.busErrorCause_of_inRegisters h, runTxn_of_inRegisters h, not_not]
  cases t.isWrite with
  | false =>
    simp only [Bool.false_eq_true, false_implies, and_true, if_false]
    refine ⟨hrd', fun hok => ?_⟩
    obtain ⟨v, hv⟩ := hrd hok
    rw [hv]
    exact .read v
  | true =>
    simp only [true_implies, if_true]
    refine ⟨hwr', fun hok => ?_⟩
    obtain ⟨u, hu, hreply⟩ := hwr hok
    rw [hu]
    exact .write hreply

theorem State.answersByCause_of_inWindow (s : State) {t : Txn} {sp : Space} (h : t.inWindow sp) :
    s.answersByCause t := by
  rw [State.answersByCause, s.busErrorCause_of_inWindow h, runTxn_of_inWindow h, not_not]
  cases t.isWrite with
  | false =>
    refine ⟨exec_rd_of_closed, fun hopen => ?_⟩
    rw [if_neg (by decide), exec_rd_of_open hopen]
    exact .read _
  | true =>
    refine ⟨exec_wr_of_closed _ _, fun hopen => ?_⟩
    rw [if_pos rfl, exec_wr_of_open _ _ hopen]
    exact .write rfl

theorem State.answersByCause_all (s : State) (t : Txn) : s.answersByCause t := by
  by_cases hr : t.inRegisters
  · exact s.answersByCause_of_inRegisters hr
  by_cases hw : ∃ sp, t.inWindow sp
  · obtain ⟨sp, hsp⟩ := hw
    exact s.answersByCause_of_inWindow hsp
  · have hw' : ∀ sp, ¬t.inWindow sp := not_exists.mp hw
    have hcause : s.busErrorCause t :=
      (s.busErrorCause_iff t).mpr (.inr (.inl ⟨hr, hw' .ibuf, hw' .obuf⟩))
    exact ⟨fun _ => runTxn_of_unmapped hr hw' s, fun hn => absurd hcause hn⟩

/-! ## The statements -/

/-- Settles O41: each transaction raises BusError or completes, by its causes. -/
theorem busErrorExactlyForItsSixCauses : Obligations.BusErrorExactlyForItsSixCauses := by
  intro s t es hr hev
  obtain ⟨hcause, hnone⟩ := (s.withEvents es).answersByCause_all t
  rw [step_of_bus hr hev]
  refine ⟨hcause, fun hn => ?_⟩
  cases hw : t.isWrite with
  | false =>
    obtain ⟨v, hv⟩ := (hnone hn).read_eq hw
    exact ⟨_, hv, by simp, fun _ => ⟨v, rfl⟩⟩
  | true =>
    obtain ⟨u, hu, hreply⟩ := (hnone hn).write_eq hw
    exact ⟨u, hu, fun _ => hreply, by simp⟩

/-- Settles O42: a read that raises BusError and one that completes change the answer alone. -/
theorem readsHaveNoSideEffects : Obligations.ReadsHaveNoSideEffects := by
  intro s t es hr hev hrd
  obtain ⟨hcause, hnone⟩ := (s.withEvents es).answersByCause_all t
  rw [step_of_bus hr hev]
  by_cases h : (s.withEvents es).busErrorCause t
  · rw [hrd] at hcause
    exact ⟨_, hcause h⟩
  · obtain ⟨v, hv⟩ := (hnone h).read_eq hrd
    exact ⟨_, hv⟩

end Sys2Proof.Machine
end

section
/-! SUPPORT. What a step runs (`spec/20_memory.md` R74): the decoded operation of a transaction, and CVT of every
pixel at a completion (`spec/42_frame.md` R126, R127). -/

namespace Sys2Proof.Machine

theorem runTxn_of_decode {t : Txn} {i : Instr} (h : decode (.bus t) = .ok i) (s : State) :
    runTxn t s = exec i s := by
  simp only [runTxn, h]

/-- Conversions go on from where the earlier ones stopped. -/
theorem runCvts_append {order : List Nat} {s t : State} (h : runCvts order s = .next t) (more : List Nat) :
    runCvts (order ++ more) s = runCvts more t := by
  induction order generalizing s with
  | nil => cases h; rfl
  | cons i order ih =>
    simp only [List.cons_append, runCvts] at h ⊢
    split at h
    · exact ih h
    · cases h
    · cases h

/-- CVT of one pixel of the running job on the channels in IBUF. -/
theorem runCvts_singleton {s : State} {px : Nat} (hb : s.status.busy = true) (hj : px < s.job.pixels)
    (hp : px < s.pMax) : runCvts [px] s = .next (s.storeSample px (s.pixelSample px)) := by
  simp only [runCvts, exec_cvt_of_pixel _ _ _ hb hj hp]
  rfl

/-- CVT of the first `n` pixels of the running job by rising index leaves what the completion stores. -/
theorem runCvts_range {s : State} (hb : s.status.busy = true) (hfit : s.job.pixels ≤ s.pMax) {n : Nat}
    (hn : n ≤ s.job.pixels) :
    runCvts (List.range n) s = .next { s with obuf := s.convertedObuf n } := by
  induction n with
  | zero => rfl
  | succ n ih =>
    have hpx : n < s.job.pixels := hn
    rw [List.range_succ, runCvts_append (ih (Nat.le_of_lt hpx))]
    exact runCvts_singleton (s := { s with obuf := s.convertedObuf n }) hb hpx (Nat.lt_of_lt_of_le hpx hfit)

/-- Settles O40: a transaction's step is its operation; a completion's is CVT of each pixel by rising index and
the latching. -/
theorem stepRunsTheDecodedInstruction : Obligations.StepRunsTheDecodedInstruction := by
  refine ⟨fun s t es i hr hev hd => ?_, fun s es hr hev hb hfit => ⟨fun px hpx => ?_, ?_⟩⟩
  · rw [step_of_bus hr hev, runTxn_of_decode hd]
  · have hmax : s.pMax ≤ maxPixels := s.pMax_legal.2.2
    exact decode_fetchPixel s (by omega)
  · refine ⟨_, runCvts_range (s := { s with events := es }) hb hfit (Nat.le_refl _), ?_⟩
    rw [step_of_complete hr hev, State.completeIfBusy, if_pos (by exact hb)]
    rfl

end Sys2Proof.Machine
end

section
/-! SUPPORT. BYTES (`spec/30_encoding.md` R94): the word and the strobe of each of its writes, what one write
stores, and what the run of all of them leaves. -/

namespace Sys2Proof.Machine

/-! ## A write to a buffer's offset as a transaction (`spec/30_encoding.md` R93, R95) -/

/-- A buffer holds whole words, and no buffer fills its window (`spec/00_scope.md` R8, R9). -/
theorem State.bufSize_legal (s : State) (sp : Space) : s.bufSize sp % 4 = 0 ∧ s.bufSize sp < 2 ^ 24 := by
  have hp := s.pMax_legal
  cases sp <;> simp only [State.bufSize_ibuf, State.bufSize_obuf] <;> omega

theorem stmtTxn_wr_key_toNat (p : Place) (data : Word) (strb : Strobe) :
    (stmtTxn (.wr p data strb)).key.toNat = 2 ^ 26 + (placeAddr p).toNat := by
  have ha := (placeAddr p).isLt
  have hor := Nat.two_pow_add_eq_or_of_lt ha 1
  rw [stmtTxn, BitVec.toNat_or, BitVec.toNat_setWidth_of_le (by decide)]
  exact hor.symm

theorem placeAddr_buf_toNat (sp : Space) {n : Nat} (hn : n < 2 ^ 24) :
    (placeAddr (.buf sp n)).toNat = windowBase sp + n := by
  rw [placeAddr, BitVec.toNat_ofNat]
  cases sp <;> simp only [windowBase] <;> omega

/-- The fields of a key that is the write flag above an offset of a buffer's window. -/
theorem fields_of_bufWrite_key {t : Txn} {sp : Space} {n : Nat} (hn : n < 2 ^ 24)
    (hkey : t.key.toNat = 2 ^ 26 + (windowBase sp + n)) :
    t.isWrite = true ∧ t.inWindow sp ∧ t.bufOffset = BitVec.ofNat 24 n := by
  have hbase : windowBase sp + n < 2 ^ 26 := by cases sp <;> simp only [windowBase] <;> omega
  have haddr : t.addr.toNat = windowBase sp + n := by
    rw [Txn.addr_toNat, hkey]
    omega
  have hwin : t.inWindow sp := by
    rw [Txn.inWindow, haddr]
    omega
  refine ⟨by rw [Txn.isWrite_iff]; omega, hwin, BitVec.eq_of_toNat_eq ?_⟩
  rw [Txn.bufOffset_of_inWindow hwin, haddr, BitVec.toNat_ofNat]
  omega

/-- A write to a buffer's offset is that buffer's write. -/
theorem runTxn_wr_buf (s : State) (sp : Space) {n : Nat} (hn : n < 2 ^ 24) (data : Word) (strb : Strobe) :
    runTxn (stmtTxn (.wr (.buf sp n) data strb)) s = exec (sp.wr (BitVec.ofNat 24 n) data strb) s := by
  have hkey := stmtTxn_wr_key_toNat (.buf sp n) data strb
  rw [placeAddr_buf_toNat sp hn] at hkey
  obtain ⟨hwrite, hwin, hoff⟩ := fields_of_bufWrite_key hn hkey
  rw [runTxn_of_inWindow hwin, if_pos hwrite, hoff]
  rfl

/-! ## One write of BYTES -/

/-- The data of BYTES's write of word `w`. -/
def bytesWord (off : Nat) (bs : List Byte) (w : Nat) : Word :=
  wordOf (bytesData off bs w 0) (bytesData off bs w 1) (bytesData off bs w 2) (bytesData off bs w 3)

/-- The strobe of BYTES's write of word `w`, for a list of `n` bytes. -/
def bytesStrobe (off n w : Nat) : Strobe :=
  BitVec.ofBool (bytesLane off n w 3) ++ BitVec.ofBool (bytesLane off n w 2) ++
    BitVec.ofBool (bytesLane off n w 1) ++ BitVec.ofBool (bytesLane off n w 0)

theorem bytesStmt_eq (sp : Space) (off : Nat) (bs : List Byte) (w : Nat) :
    bytesStmt sp off bs w =
      .wr (.buf sp (4 * w)) (bytesWord off bs w) (bytesStrobe off bs.length w) :=
  rfl

theorem bytesStrobe_getLsbD (off n w : Nat) {j : Nat} (hj : j < 4) :
    (bytesStrobe off n w).getLsbD j = bytesLane off n w j := by
  rw [bytesStrobe, BitVec.getLsbD_append, BitVec.getLsbD_append, BitVec.getLsbD_append]
  interval_cases j <;> simp

theorem laneByte_bytesWord (off : Nat) (bs : List Byte) (w : Nat) {j : Nat} (hj : j < 4) :
    laneByte (bytesWord off bs w) j = bytesData off bs w j :=
  laneByte_wordOf (bytesData off bs w) hj

theorem bytesLane_iff {off n w x : Nat} (hx : x / 4 = w) :
    bytesLane off n w (x - 4 * w) = true ↔ off ≤ x ∧ x < off + n := by
  have hback : 4 * w + (x - 4 * w) = x := by omega
  simp [bytesLane, hback]

/-- The write of word `w` stores the list's bytes that lie in the word, and no other byte. -/
theorem State.readByte_bytesWrite (s : State) (sp : Space) (off : Nat) (bs : List Byte) (w : Nat) (sp' : Space)
    (x : Nat) :
    (s.writeWord sp (4 * w) (bytesWord off bs w) (bytesStrobe off bs.length w)).readByte sp' x =
      if sp = sp' ∧ x / 4 = w ∧ (off ≤ x ∧ x < off + bs.length) then bs.getD (x - off) 0
      else s.readByte sp' x := by
  by_cases hx : x / 4 = w
  · have hin : 4 * w ≤ x ∧ x < 4 * w + 4 := by omega
    have hj : x - 4 * w < 4 := by omega
    have hback : 4 * w + (x - 4 * w) - off = x - off := by omega
    have hlane := bytesLane_iff (off := off) (n := bs.length) hx
    rw [State.readByte_writeWord, bytesStrobe_getLsbD _ _ _ hj, laneByte_bytesWord _ _ _ hj, bytesData, hback]
    simp only [hin, hx, hlane, true_and]
    split_ifs with h h'
    · rfl
    · exact absurd h.2 h'
    · rfl
  · rw [State.readByte_writeWord_outside _ _ _ (by omega), if_neg fun h => hx h.2.1]

/-! ## The run of all writes of BYTES -/

/-- What no access of a buffer touches: the state but for the buffers, the answer and the events to come. -/
def State.control (s : State) : State := { s with ibuf := [], obuf := [], reply := none, events := [] }

theorem State.fields_of_control_eq {s t : State} (h : t.control = s.control) :
    t.quads = s.quads ∧ t.inReset = s.inReset ∧
      t.status = s.status ∧ t.header = s.header ∧ t.ctrl = s.ctrl ∧ t.out = s.out ∧ t.job = s.job := by
  simp_all [State.control]

theorem State.writeWord_keeps (s : State) (sp : Space) (a : Nat) (data : Word) (strb : Strobe) :
    (s.writeWord sp a data strb).control = s.control ∧ (s.writeWord sp a data strb).events = s.events := by
  obtain ⟨m, hm⟩ := s.writeWord_eq_withBuffer sp a data strb
  rw [hm]
  cases sp <;> exact ⟨rfl, rfl⟩

/-- The event of BYTES's write of word `w`. -/
def bytesEvent (sp : Space) (off : Nat) (bs : List Byte) (w : Nat) : Event :=
  .bus (stmtTxn (bytesStmt sp off bs w))

theorem scriptEvents_bytes (sp : Space) (off : Nat) (bs : List Byte) :
    scriptEvents [.bytes sp off bs] =
      (List.range' (off / 4) (bytesWords off bs.length)).map (bytesEvent sp off bs) := by
  rw [List.range'_eq_map_range]
  simp [scriptEvents, expandLine, bytesEvent, Action.event]

/-- One step on the write of a word that the buffer has, while IDLE. -/
theorem step_of_bytesEvent {s : State} {sp : Space} {off w : Nat} {bs : List Byte} {es : List Event}
    (hr : s.inReset = false) (hb : s.status.busy = false) (hfit : 4 * w + 4 ≤ s.bufSize sp)
    (hev : s.events = bytesEvent sp off bs w :: es) :
    ∃ u, step s = .next u ∧ u.events = es ∧ u.control = s.control ∧
      ∀ sp' x, u.readByte sp' x =
        if sp = sp' ∧ x / 4 = w ∧ off ≤ x ∧ x < off + bs.length then bs.getD (x - off) 0
        else s.readByte sp' x := by
  have hsize := (s.bufSize_legal sp).2
  have hlt : 4 * w < 2 ^ 24 := by omega
  have hoff : (BitVec.ofNat 24 (4 * w)).toNat = 4 * w := by
    rw [BitVec.toNat_ofNat, Nat.mod_eq_of_lt hlt]
  have hopen : (s.withEvents es).accessOpen sp true (BitVec.ofNat 24 (4 * w)) = true := by
    rw [State.accessOpen_write_iff, hoff]
    exact ⟨by omega, hfit, hb⟩
  have hexec := exec_wr_of_open (bytesWord off bs w) (bytesStrobe off bs.length w) hopen
  rw [hoff] at hexec
  obtain ⟨hcontrol, hevents⟩ := (s.withEvents es).writeWord_keeps sp (4 * w) (bytesWord off bs w)
    (bytesStrobe off bs.length w)
  have hstep := step_of_bus hr hev
  rw [bytesStmt_eq, runTxn_wr_buf _ sp hlt] at hstep
  refine ⟨_, hstep.trans hexec, hevents, hcontrol, fun sp' x => ?_⟩
  rw [State.writeOkay_eq, State.readByte_answer]
  exact (s.withEvents es).readByte_bytesWrite sp off bs w sp' x

/-- The run of the writes of `m` words from word `w` on stores the list's bytes that lie in those words, and no
other byte. -/
theorem runs_bytesEvents {sp : Space} {off : Nat} {bs : List Byte} {es : List Event} (m w : Nat) {s : State}
    (hr : s.inReset = false) (hb : s.status.busy = false) (hfit : m ≠ 0 → 4 * (w + m) ≤ s.bufSize sp)
    (hev : s.events = (List.range' w m).map (bytesEvent sp off bs) ++ es) :
    ∃ t : State, Runs m s t ∧ t.events = es ∧ t.control = s.control ∧
      ∀ sp' x, t.readByte sp' x =
        if sp = sp' ∧ (w ≤ x / 4 ∧ x / 4 < w + m) ∧ off ≤ x ∧ x < off + bs.length then bs.getD (x - off) 0
        else s.readByte sp' x := by
  induction m generalizing w s with
  | zero =>
    refine ⟨s, .zero s, by simpa using hev, rfl, fun sp' x => ?_⟩
    rw [if_neg (by omega)]
  | succ m ih =>
    have hsize : 4 * (w + (m + 1)) ≤ s.bufSize sp := hfit (Nat.succ_ne_zero m)
    obtain ⟨u, hu, hue, huc, hub⟩ := step_of_bytesEvent hr hb (by omega) hev
    obtain ⟨huq, hur, hustatus, -⟩ := State.fields_of_control_eq huc
    have husize := State.bufSize_congr huq sp
    obtain ⟨t, ht, hte, htc, htb⟩ := ih (w + 1) (hur.trans hr) (hustatus ▸ hb) (by omega) hue
    refine ⟨t, .cons hu ht, hte, htc.trans huc, fun sp' x => ?_⟩
    rw [htb, hub]
    by_cases hx : x / 4 = w
    · subst hx
      have hnext : ¬(x / 4 + 1 ≤ x / 4 ∧ x / 4 < x / 4 + 1 + m) := by omega
      have hword : x / 4 ≤ x / 4 ∧ x / 4 < x / 4 + (m + 1) := by omega
      simp only [hnext, hword, true_and, false_and, and_false, if_false, and_self]
    · have hword : (w + 1 ≤ x / 4 ∧ x / 4 < w + 1 + m) ↔ (w ≤ x / 4 ∧ x / 4 < w + (m + 1)) := by omega
      simp only [hx, hword, false_and, and_false, if_false]

/-- The words of BYTES are those that its bytes lie in. -/
theorem bytesWords_cover {off n x : Nat} (h : off ≤ x ∧ x < off + n) :
    off / 4 ≤ x / 4 ∧ x / 4 < off / 4 + bytesWords off n := by
  rw [bytesWords, if_neg (by omega)]
  omega

/-- The words of BYTES lie in a buffer that has its bytes. -/
theorem bytesWords_fit {s : State} {sp : Space} {off n : Nat} (h : off + n ≤ s.bufSize sp)
    (hne : bytesWords off n ≠ 0) : 4 * (off / 4 + bytesWords off n) ≤ s.bufSize sp := by
  have hsize := (s.bufSize_legal sp).1
  rw [bytesWords] at hne ⊢
  split_ifs at hne ⊢ <;> omega

/-- Settles O56: the run of all of BYTES's words, which cover its bytes. -/
theorem bytesScriptStoresItsBytes : Obligations.BytesScriptStoresItsBytes := by
  intro s es sp off bs hr hb hfit hev
  rw [scriptEvents_bytes] at hev
  obtain ⟨t, hrun, hes, hcontrol, hbytes⟩ :=
    runs_bytesEvents (bytesWords off bs.length) (off / 4) hr hb (bytesWords_fit hfit) hev
  obtain ⟨-, -, hframe⟩ := State.fields_of_control_eq hcontrol
  refine ⟨t, hrun, hes, fun j hj => ?_, fun sp' x hx => ?_, hframe⟩
  · have hcover : off ≤ off + j ∧ off + j < off + bs.length := by omega
    rw [hbytes, if_pos ⟨rfl, bytesWords_cover hcover, hcover⟩, Nat.add_sub_cancel_left]
  · rw [hbytes, if_neg]
    rintro ⟨rfl, -, hcover⟩
    exact hx ⟨rfl, hcover⟩

end Sys2Proof.Machine
end

section
/-! SUPPORT. Encoding and decoding (`spec/30_encoding.md` R83, R84, R87, R93, R95): a key as the write flag above
an address, what the address's window decodes to, and what that encodes to. -/

namespace Sys2Proof

open Machine

/-! ## A key is the write flag above an address (R83) -/

theorem toNat_flag_append (write : Bool) (a : Addr) :
    (BitVec.ofBool write ++ a : Key).toNat = write.toNat * 2 ^ 26 + a.toNat := by
  rw [toNat_append_add, BitVec.toNat_ofBool]

theorem Txn.key_eq (t : Txn) : t.key = BitVec.ofBool t.isWrite ++ t.addr := by
  have hk := t.key.isLt
  have hw := t.isWrite_iff
  apply BitVec.eq_of_toNat_eq
  rw [toNat_flag_append, t.addr_toNat]
  cases h : t.isWrite <;> simp only [h, true_iff, Bool.false_eq_true, false_iff, Bool.toNat_true,
    Bool.toNat_false] at hw ⊢ <;> omega

theorem Txn.key_toNat (t : Txn) : t.key.toNat = t.isWrite.toNat * 2 ^ 26 + t.addr.toNat := by
  rw [← toNat_flag_append, ← t.key_eq]

theorem Txn.fields_of_key {t : Txn} {write : Bool} {a : Addr} (h : t.key = BitVec.ofBool write ++ a) :
    t.isWrite = write ∧ t.addr = a := by
  constructor
  · rw [Txn.isWrite, h, BitVec.getLsbD_append]
    simp
  · rw [Txn.addr, h, BitVec.extractLsb'_append_eq_right]

/-! ## Addresses in the windows (`spec/20_memory.md` R61) -/

theorem regAddr_toNat (off : BitVec 12) : (off.setWidth 26 : Addr).toNat = off.toNat :=
  BitVec.toNat_setWidth_of_le (by decide)

/-- The address of an offset in a buffer's window. -/
def windowAddr (sp : Space) (off : BitVec 24) : Addr := placeAddr (.buf sp off.toNat)

theorem windowAddr_toNat (sp : Space) (off : BitVec 24) :
    (windowAddr sp off).toNat = windowBase sp + off.toNat :=
  placeAddr_buf_toNat sp off.isLt

theorem Txn.addr_of_inRegisters {t : Txn} (h : t.inRegisters) : t.addr = t.regOffset.setWidth 26 :=
  BitVec.eq_of_toNat_eq (by rw [regAddr_toNat, Txn.regOffset_of_inRegisters h])

theorem Txn.inRegisters_of_addr {t : Txn} {off : BitVec 12} (h : t.addr = off.setWidth 26) :
    t.inRegisters ∧ t.regOffset = off := by
  have hin : t.inRegisters := by
    rw [Txn.inRegisters, h, regAddr_toNat]
    exact off.isLt
  exact ⟨hin, BitVec.eq_of_toNat_eq (by rw [Txn.regOffset_of_inRegisters hin, h, regAddr_toNat])⟩

theorem Txn.addr_of_inWindow {t : Txn} {sp : Space} (h : t.inWindow sp) :
    t.addr = windowAddr sp t.bufOffset := by
  apply BitVec.eq_of_toNat_eq
  rw [windowAddr_toNat, Txn.bufOffset_of_inWindow h, Nat.add_sub_cancel' h.1]

theorem Txn.inWindow_of_addr {t : Txn} {sp : Space} {off : BitVec 24} (h : t.addr = windowAddr sp off) :
    t.inWindow sp ∧ t.bufOffset = off := by
  have hin : t.inWindow sp := by
    rw [Txn.inWindow, h, windowAddr_toNat]
    exact ⟨Nat.le_add_right .., Nat.add_lt_add_left off.isLt _⟩
  refine ⟨hin, BitVec.eq_of_toNat_eq ?_⟩
  rw [Txn.bufOffset_of_inWindow hin, h, windowAddr_toNat, Nat.add_sub_cancel_left]

/-! ## What a transaction decodes to, by its window -/

/-- What a transaction in the register region decodes to. -/
def Txn.regInstr (t : Txn) : Instr :=
  if t.isWrite then decodeRegWrite t.regOffset t.wdata t.wstrb else .regRd t.regOffset

/-- What a transaction in a buffer's window decodes to. -/
def Txn.bufInstr (t : Txn) (sp : Space) : Instr :=
  if t.isWrite then sp.wr t.bufOffset t.wdata t.wstrb else sp.rd t.bufOffset

theorem decode_of_inRegisters {t : Txn} (h : t.inRegisters) : decode (.bus t) = .ok t.regInstr := by
  rw [Txn.inRegisters, t.addr_toNat] at h
  rw [decode_bus_eq, if_pos (by omega), if_pos (by omega), Txn.regInstr]
  simp only [← t.isWrite_iff]
  split_ifs <;> rfl

theorem decode_of_inWindow {t : Txn} {sp : Space} (h : t.inWindow sp) :
    decode (.bus t) = .ok (t.bufInstr sp) := by
  rw [Txn.inWindow, t.addr_toNat] at h
  rw [decode_bus_eq, Txn.bufInstr]
  simp only [← t.isWrite_iff]
  cases sp <;> simp only [windowBase] at h
  · rw [if_neg (by omega), if_pos (by omega)]
    split_ifs <;> rfl
  · rw [if_neg (by omega), if_neg (by omega), if_pos (by omega)]
    split_ifs <;> rfl

/-- A transaction that decodes lies in one of the windows (R91). -/
theorem decode_bus_cases {t : Txn} {i : Instr} (h : decode (.bus t) = .ok i) :
    (t.inRegisters ∧ i = t.regInstr) ∨ ∃ sp, t.inWindow sp ∧ i = t.bufInstr sp := by
  by_cases hr : t.inRegisters
  · rw [decode_of_inRegisters hr] at h
    cases h
    exact .inl ⟨hr, rfl⟩
  by_cases hw : ∃ sp, t.inWindow sp
  · obtain ⟨sp, hsp⟩ := hw
    rw [decode_of_inWindow hsp] at h
    cases h
    exact .inr ⟨sp, hsp, rfl⟩
  · have hi := not_exists.mp hw .ibuf
    have ho := not_exists.mp hw .obuf
    simp only [Txn.inRegisters, Txn.inWindow, windowBase, t.addr_toNat] at hr hi ho
    rw [decode_bus_eq] at h
    split_ifs at h <;> omega

theorem decode_regTxn (write : Bool) (off : BitVec 12) (w : Word) (st : Strobe) :
    decode (.bus ⟨BitVec.ofBool write ++ off.setWidth 26, w, st⟩) =
      .ok (if write then decodeRegWrite off w st else .regRd off) := by
  obtain ⟨hw, ha⟩ := Txn.fields_of_key (t := ⟨BitVec.ofBool write ++ off.setWidth 26, w, st⟩) rfl
  obtain ⟨hin, hoff⟩ := Txn.inRegisters_of_addr ha
  rw [decode_of_inRegisters hin, Txn.regInstr, hw, hoff]

theorem decode_bufTxn (write : Bool) (sp : Space) (off : BitVec 24) (w : Word) (st : Strobe) :
    decode (.bus ⟨BitVec.ofBool write ++ windowAddr sp off, w, st⟩) =
      .ok (if write then sp.wr off w st else sp.rd off) := by
  obtain ⟨hw, ha⟩ := Txn.fields_of_key (t := ⟨BitVec.ofBool write ++ windowAddr sp off, w, st⟩) rfl
  obtain ⟨hin, hoff⟩ := Txn.inWindow_of_addr ha
  rw [decode_of_inWindow hin, Txn.bufInstr, hw, hoff]

/-! ## What an instruction encodes to (R83, R95) -/

theorem regKey_eq (write : Bool) (off : BitVec 12) :
    regKey write off = BitVec.ofBool write ++ (off.setWidth 26 : Addr) := by
  apply BitVec.eq_of_toNat_eq
  rw [regKey_toNat, toNat_flag_append, regAddr_toNat]
  cases write <;> rfl

/-- `TK[25:24]` of a buffer's window. -/
def windowRegion : Space → BitVec 2
  | .ibuf => 0b01
  | .obuf => 0b10

theorem bufKey_eq (write : Bool) (sp : Space) (off : BitVec 24) :
    bufKey (BitVec.ofBool write ++ windowRegion sp) off =
      BitVec.ofBool write ++ windowAddr sp off := by
  apply BitVec.eq_of_toNat_eq
  rw [bufKey_toNat, toNat_append_add, toNat_flag_append, windowAddr_toNat]
  cases write <;> cases sp <;> simp [windowBase, windowRegion] <;> omega

theorem encode_rd (sp : Space) (off : BitVec 24) :
    encode (sp.rd off) = .bus ⟨BitVec.ofBool false ++ windowAddr sp off, 0, 0⟩ := by
  rw [← bufKey_eq]
  cases sp <;> rfl

theorem encode_wr (sp : Space) (off : BitVec 24) (w : Word) (st : Strobe) :
    encode (sp.wr off w st) = .bus ⟨BitVec.ofBool true ++ windowAddr sp off, w, st⟩ := by
  rw [← bufKey_eq]
  cases sp <;> rfl

theorem encode_regRd (off : BitVec 12) :
    encode (.regRd off) = .bus ⟨BitVec.ofBool false ++ off.setWidth 26, 0, 0⟩ := by
  rw [encode, regKey_eq]

theorem encode_regWr (off : BitVec 12) (w : Word) (st : Strobe) :
    encode (.regWr off w st) = .bus ⟨BitVec.ofBool true ++ off.setWidth 26, w, st⟩ := by
  rw [encode, regKey_eq]

theorem encode_command (c : Command) : encode c.instr = .bus (commandTxn c.word) := by
  cases c <;> rfl

/-- A register write has one coded form, named as a command or not. -/
theorem encode_decodeRegWrite (off : BitVec 12) (w : Word) (st : Strobe) :
    encode (decodeRegWrite off w st) = .bus ⟨BitVec.ofBool true ++ off.setWidth 26, w, st⟩ := by
  rcases decodeRegWrite_cases off w st with ⟨c, h, rfl, rfl, rfl⟩ | ⟨h, -⟩ <;> rw [h]
  · rw [encode_command, commandTxn, regKey_eq]
  · exact encode_regWr off w st

/-! ## Well-formed names (R87, log entry 15) -/

/-- The REG_WR of a command's word to CMD is not well-formed. -/
theorem Instr.not_wellFormed_commandWrite (c : Command) :
    (Instr.regWr cmdOffset c.word 0xF).wellFormed = false := by
  cases c <;> rfl

theorem decodeRegWrite_of_wellFormed {off : BitVec 12} {w : Word} {st : Strobe}
    (h : (Instr.regWr off w st).wellFormed = true) : decodeRegWrite off w st = .regWr off w st := by
  rcases decodeRegWrite_cases off w st with ⟨c, -, rfl, rfl, rfl⟩ | ⟨hd, -⟩
  · rw [Instr.not_wellFormed_commandWrite] at h
    cases h
  · exact hd

theorem decodeRegWrite_wellFormed (off : BitVec 12) (w : Word) (st : Strobe) :
    (decodeRegWrite off w st).wellFormed = true := by
  rcases decodeRegWrite_cases off w st with ⟨c, h, -⟩ | ⟨h, hnone⟩ <;> rw [h]
  · cases c <;> rfl
  · simp only [Instr.wellFormed, Bool.not_eq_true', Bool.and_eq_false_iff, beq_eq_false_iff_ne,
      decide_eq_false_iff_not, Nat.not_lt]
    by_cases ho : off = cmdOffset
    · by_cases hs : st = 0xF
      · exact .inr ((Command.ofWord_none_iff w).mp (hnone ho hs))
      · exact .inl (.inr hs)
    · exact .inl (.inl ho)

/-! ## The round trips -/

theorem decode_encode_command (c : Command) : decode (encode c.instr) = .ok c.instr := by
  cases c <;> rfl

theorem decode_encode_rd (sp : Space) (off : BitVec 24) : decode (encode (sp.rd off)) = .ok (sp.rd off) := by
  rw [encode_rd, decode_bufTxn]
  rfl

theorem decode_encode_wr (sp : Space) (off : BitVec 24) (w : Word) (st : Strobe) :
    decode (encode (sp.wr off w st)) = .ok (sp.wr off w st) := by
  rw [encode_wr, decode_bufTxn]
  rfl

/-- Settles O1: by the instruction's coded form. -/
theorem decodeOfEncodeIsTheInstruction : Obligations.DecodeOfEncodeIsTheInstruction := by
  intro i hwf
  cases i with
  | regRd off => rw [encode_regRd, decode_regTxn]; rfl
  | regWr off w st => rw [encode_regWr, decode_regTxn, if_pos rfl, decodeRegWrite_of_wellFormed hwf]
  | ibufRd off => exact decode_encode_rd .ibuf off
  | ibufWr off w st => exact decode_encode_wr .ibuf off w st
  | obufRd off => exact decode_encode_rd .obuf off
  | obufWr off w st => exact decode_encode_wr .obuf off w st
  | nop => exact decode_encode_command .nop
  | start => exact decode_encode_command .start
  | clear => exact decode_encode_command .clear
  | abort => exact decode_encode_command .abort
  | cvt px b g r =>
    have hpx : px < maxPixels := of_decide_eq_true hwf
    rw [encode, decode, if_pos hpx, pixB_pix24, pixG_pix24, pixR_pix24]

/-- A transaction that decodes is its instruction's coded form, but for a read's data and strobe. -/
theorem encode_of_decode_bus {t : Txn} {i : Instr} (h : decode (.bus t) = .ok i) :
    encode i = .bus (if t.isWrite then t else ⟨t.key, 0, 0⟩) := by
  have hkey := t.key_eq
  rcases decode_bus_cases h with ⟨hin, rfl⟩ | ⟨sp, hin, rfl⟩
  · rw [Txn.addr_of_inRegisters hin] at hkey
    rw [Txn.regInstr]
    cases hw : t.isWrite <;> rw [hw] at hkey
    · exact (encode_regRd _).trans (by rw [← hkey]; rfl)
    · exact (encode_decodeRegWrite _ _ _).trans (by rw [← hkey]; rfl)
  · rw [Txn.addr_of_inWindow hin] at hkey
    rw [Txn.bufInstr]
    cases hw : t.isWrite <;> rw [hw] at hkey
    · exact (encode_rd sp _).trans (by rw [← hkey]; rfl)
    · exact (encode_wr sp _ _ _).trans (by rw [← hkey]; rfl)

/-- A pixel that decodes lies in a legal raster, and CVT takes its channels (R84). -/
theorem decode_pixel_cases {px : Nat} {p : BitVec 24} {i : Instr} (h : decode (.pixel px p) = .ok i) :
    px < maxPixels ∧ i = .cvt px (pixB p) (pixG p) (pixR p) := by
  rw [decode] at h
  split_ifs at h with hpx
  cases h
  exact ⟨hpx, rfl⟩

theorem wellFormed_of_decode {c : Code} {i : Instr} (h : decode c = .ok i) : i.wellFormed = true := by
  cases c with
  | pixel px p =>
    obtain ⟨hpx, rfl⟩ := decode_pixel_cases h
    exact decide_eq_true hpx
  | bus t =>
    rcases decode_bus_cases h with ⟨-, rfl⟩ | ⟨sp, -, rfl⟩
    · rw [Txn.regInstr]
      split_ifs
      · exact decodeRegWrite_wellFormed ..
      · rfl
    · rw [Txn.bufInstr]
      split_ifs <;> cases sp <;> rfl

/-- Settles O2: a transaction and a pixel are their instruction's coded form, and decoded names are well-formed. -/
theorem decodedFormsHaveOneMeaning : Obligations.DecodedFormsHaveOneMeaning := by
  refine ⟨fun t i h => encode_of_decode_bus h, fun px p i h => ?_, fun c i h => wellFormed_of_decode h⟩
  obtain ⟨-, rfl⟩ := decode_pixel_cases h
  rw [encode, pix24_pixels]

end Sys2Proof
end

section
/-! SUPPORT. The key table (`spec/30_encoding.md` R83): the decoder and the table's rows select an operation by
the same direction and window. -/

namespace Sys2Proof

open Machine

/-! ## The operation a transaction selects -/

/-- The window of a bus operation, the register region being none of the buffers'. -/
def BusOp.window : BusOp → Option Space
  | .regRd | .regWr => none
  | .ibufRd | .ibufWr => some .ibuf
  | .obufRd | .obufWr => some .obuf

/-- The write flag of a bus operation's row. -/
def BusOp.isWrite : BusOp → Bool
  | .regRd | .ibufRd | .obufRd => false
  | .regWr | .ibufWr | .obufWr => true

/-- The address lies in the window of a bus operation. -/
def Txn.inside (t : Txn) : Option Space → Prop
  | none => t.inRegisters
  | some sp => t.inWindow sp

theorem Txn.inside_unique {t : Txn} {win win' : Option Space} (h : t.inside win) (h' : t.inside win') :
    win = win' := by
  cases win with
  | none =>
    cases win' with
    | none => rfl
    | some sp' => exact absurd h (Txn.not_inRegisters_of_inWindow h')
  | some sp =>
    cases win' with
    | none => exact absurd h' (Txn.not_inRegisters_of_inWindow h)
    | some sp' => exact congrArg some (Txn.inWindow_unique h h')

/-- A transaction has the direction and the window of an operation. -/
def Txn.selects (t : Txn) (op : BusOp) : Prop := op.isWrite = t.isWrite ∧ t.inside op.window

theorem busOp_decodeRegWrite (off : BitVec 12) (w : Word) (st : Strobe) :
    (decodeRegWrite off w st).busOp = some .regWr := by
  rcases decodeRegWrite_cases off w st with ⟨c, h, -⟩ | ⟨h, -⟩ <;> rw [h]
  · cases c <;> rfl
  · rfl

theorem Txn.busOp_regInstr (t : Txn) (op : BusOp) :
    t.regInstr.busOp = some op ↔ op.isWrite = t.isWrite ∧ op.window = none := by
  rw [Txn.regInstr]
  cases t.isWrite with
  | true => rw [if_pos rfl, busOp_decodeRegWrite]; cases op <;> decide
  | false => rw [if_neg (by decide), Instr.busOp]; cases op <;> decide

theorem Txn.busOp_bufInstr (t : Txn) (sp : Space) (op : BusOp) :
    (t.bufInstr sp).busOp = some op ↔ op.isWrite = t.isWrite ∧ op.window = some sp := by
  rw [Txn.bufInstr]
  cases t.isWrite with
  | false => cases sp <;> rw [if_neg (by decide), Space.rd, Instr.busOp] <;> cases op <;> decide
  | true => cases sp <;> rw [if_pos rfl, Space.wr, Instr.busOp] <;> cases op <;> decide

/-- The decoder answers an operation exactly where the transaction has its direction and window. -/
theorem decode_busOp_iff (t : Txn) (op : BusOp) :
    (∃ i, decode (.bus t) = .ok i ∧ i.busOp = some op) ↔ t.selects op := by
  constructor
  · rintro ⟨i, hi, hop⟩
    rcases decode_bus_cases hi with ⟨hin, rfl⟩ | ⟨sp, hin, rfl⟩
    · obtain ⟨hw, hwin⟩ := (t.busOp_regInstr op).mp hop
      exact ⟨hw, hwin ▸ hin⟩
    · obtain ⟨hw, hwin⟩ := (t.busOp_bufInstr sp op).mp hop
      exact ⟨hw, hwin ▸ hin⟩
  · rintro ⟨hw, hin⟩
    cases hwin : op.window with
    | none =>
      rw [hwin] at hin
      exact ⟨_, decode_of_inRegisters hin, (t.busOp_regInstr op).mpr ⟨hw, hwin⟩⟩
    | some sp =>
      rw [hwin] at hin
      exact ⟨_, decode_of_inWindow hin, (t.busOp_bufInstr sp op).mpr ⟨hw, hwin⟩⟩

/-! ## The operation a row matches -/

theorem bool_eq_iff_toNat : ∀ a b : Bool, a = b ↔ a.toNat = b.toNat := by decide

/-- The match of a register row: all bits above the offset are the row's. -/
theorem Txn.matches_regRow (t : Txn) (write : Bool) :
    t.key &&& 0x7FFF000 = BitVec.ofBool write ++ 0#26 ↔ write = t.isWrite ∧ t.inRegisters := by
  have ha := t.addr.isLt
  rw [← BitVec.toNat_inj, key_and_pageMask, toNat_flag_append, t.key_toNat, bool_eq_iff_toNat, Txn.inRegisters,
    BitVec.toNat_zero]
  omega

/-- The match of a buffer's row: the flag and the region are the row's. -/
theorem Txn.matches_bufRow (t : Txn) (write : Bool) (sp : Space) :
    t.key &&& 0x7000000 = BitVec.ofBool write ++ windowAddr sp 0#24 ↔ write = t.isWrite ∧ t.inWindow sp := by
  have ha := t.addr.isLt
  rw [← BitVec.toNat_inj, key_and_regionMask, toNat_flag_append, windowAddr_toNat, t.key_toNat, bool_eq_iff_toNat,
    Txn.inWindow, BitVec.toNat_zero]
  cases sp <;> rw [windowBase] <;> omega

/-- A key matches a row exactly where it selects the row's operation. -/
theorem Txn.matches_row_iff (t : Txn) :
    ∀ row ∈ keyRows, (t.key &&& row.mask = row.pattern ↔ t.selects row.op) := by
  simp only [keyRows, List.forall_mem_cons]
  exact ⟨t.matches_regRow false, t.matches_regRow true, t.matches_bufRow false .ibuf,
    t.matches_bufRow true .ibuf, t.matches_bufRow false .obuf, t.matches_bufRow true .obuf,
    fun _ h => absurd h List.not_mem_nil⟩

theorem exists_keyRow (op : BusOp) : ∃ row ∈ keyRows, row.op = op := by
  cases op <;> decide

/-- No two rows have one direction and one window. -/
theorem keyRow_unique : ∀ row ∈ keyRows, ∀ row' ∈ keyRows,
    row.op.isWrite = row'.op.isWrite → row.op.window = row'.op.window → row = row' := by
  decide

/-- Settles O3: the decoder and the rows select by the same direction and window. -/
theorem decoderFollowsTheKeyTable : Obligations.DecoderFollowsTheKeyTable := by
  refine ⟨fun t op => ?_, fun k row hrow row' hrow' h h' => ?_⟩
  · rw [decode_busOp_iff]
    constructor
    · intro hsel
      obtain ⟨row, hrow, rfl⟩ := exists_keyRow op
      exact ⟨row, hrow, rfl, (t.matches_row_iff row hrow).mpr hsel⟩
    · rintro ⟨row, hrow, rfl, hmatch⟩
      exact (t.matches_row_iff row hrow).mp hmatch
  · obtain ⟨hw, hin⟩ := (Txn.matches_row_iff ⟨k, 0, 0⟩ row hrow).mp h
    obtain ⟨hw', hin'⟩ := (Txn.matches_row_iff ⟨k, 0, 0⟩ row' hrow').mp h'
    exact keyRow_unique row hrow row' hrow' (hw.trans hw'.symm) (Txn.inside_unique hin hin')

end Sys2Proof
end

section
/-! SUPPORT. Words of the spec, and the machine statements of a script (`spec/30_encoding.md` R87, R93, R95). -/

namespace Sys2Proof

open Machine

/-! ## Words of the spec -/

/-- Settles O4: the laws of command words. -/
theorem commandWordsAreZeroToThree : Obligations.CommandWordsAreZeroToThree :=
  ⟨Command.ofWord_word, fun _ _ h => Command.word_of_ofWord h, Command.ofWord_none_iff, rfl⟩

/-- Settles O5: the decoder evaluates each word. -/
theorem specWordsDecode : Obligations.SpecWordsDecode :=
  ⟨rfl, rfl, rfl, rfl, rfl, rfl, rfl, rfl, rfl, rfl⟩

/-! ## Machine statements (R93, R95) -/

theorem stmtTxn_wr_eq (p : Place) (data : Word) (strb : Strobe) :
    stmtTxn (.wr p data strb) = ⟨BitVec.ofBool true ++ placeAddr p, data, strb⟩ := by
  have hkey : (stmtTxn (.wr p data strb)).key = BitVec.ofBool true ++ placeAddr p :=
    BitVec.eq_of_toNat_eq ((stmtTxn_wr_key_toNat p data strb).trans (toNat_flag_append true _).symm)
  rw [← hkey]
  rfl

theorem stmtTxn_rd_eq (p : Place) : stmtTxn (.rd p) = ⟨BitVec.ofBool false ++ placeAddr p, 0, 0⟩ := by
  have hkey : (placeAddr p).setWidth 27 = BitVec.ofBool false ++ placeAddr p := by
    apply BitVec.eq_of_toNat_eq
    rw [toNat_flag_append, BitVec.toNat_setWidth_of_le (by decide), Bool.toNat_false, Nat.zero_mul, Nat.zero_add]
  rw [stmtTxn, hkey]

theorem decode_rd_reg (r : Reg) : decode (.bus (stmtTxn (.rd (.reg r)))) = .ok (.regRd r.offset) := by
  rw [stmtTxn_rd_eq]
  exact decode_regTxn false r.offset 0 0

theorem decode_wr_reg (r : Reg) (data : Word) (strb : Strobe) :
    decode (.bus (stmtTxn (.wr (.reg r) data strb))) = .ok (decodeRegWrite r.offset data strb) := by
  rw [stmtTxn_wr_eq]
  exact decode_regTxn true r.offset data strb

theorem decode_rd_buf (sp : Space) {n : Nat} (hn : n < 2 ^ 24) :
    decode (.bus (stmtTxn (.rd (.buf sp n)))) = .ok (sp.rd (BitVec.ofNat 24 n)) := by
  have hoff : (BitVec.ofNat 24 n).toNat = n := by rw [BitVec.toNat_ofNat, Nat.mod_eq_of_lt hn]
  have haddr : placeAddr (.buf sp n) = windowAddr sp (BitVec.ofNat 24 n) := by rw [windowAddr, hoff]
  rw [stmtTxn_rd_eq, haddr]
  exact decode_bufTxn false sp (BitVec.ofNat 24 n) 0 0

/-- Settles O6: each statement's key, and what the keys of the places decode to. -/
theorem statementsEncodeAsKeyDataAndStrobe : Obligations.StatementsEncodeAsKeyDataAndStrobe :=
  ⟨stmtTxn_wr_eq, stmtTxn_rd_eq, decode_rd_reg,
    fun _ hn => ⟨decode_rd_buf .ibuf hn, decode_rd_buf .obuf hn⟩⟩

end Sys2Proof
end

section
/-! SUPPORT. The bits of a sample (`spec/30_encoding.md` R86) and where CVT stores it (`spec/41_rescale.md`
R109). -/

namespace Sys2Proof.Machine

/-- Scaling by 16 puts the luma above four zero bits and below four more (R85, R86). -/
theorem rescale12_fields (y : Byte) :
    (rescale12 y).extractLsb' 12 4 = 0 ∧ (rescale12 y).extractLsb' 0 4 = 0 ∧
      (rescale12 y).extractLsb' 4 8 = y := by
  have hy := y.isLt
  refine ⟨?_, ?_, ?_⟩ <;> apply BitVec.eq_of_toNat_eq <;> rw [toNat_extract_div, rescale12_toNat]
  · rw [show (0 : BitVec 4).toNat = 0 from rfl]; omega
  · rw [show (0 : BitVec 4).toNat = 0 from rfl]; omega
  · omega

/-- Settles O11: a sample is its luma, rescaled. -/
theorem samplesHaveTheLumaInBitsElevenToFour : Obligations.SamplesHaveTheLumaInBitsElevenToFour :=
  fun b g r => rescale12_fields (luma8 b g r)

/-- A stored sample is its pixel's two bytes of OBUF, and no other byte changes. -/
theorem State.readByte_obuf_storeSample (s : State) (px : Nat) (y : Sample) (k : Nat) :
    (s.storeSample px y).readByte .obuf k =
      if k / 2 = px then sampleByte y (k % 2 == 1) else s.readByte .obuf k := by
  rw [State.readByte_obuf, State.storeSample_obuf, Memory.get_setSample]
  split_ifs <;> rfl

/-- Settles O15: CVT of a pixel of the running job stores its sample. -/
theorem cvtStoresTheSampleOfItsPixel : Obligations.CvtStoresTheSampleOfItsPixel := by
  intro s px b g r hb hj hp
  refine ⟨_, sampleOf b g r, exec_cvt_of_pixel b g r hb hj hp, sampleOf_toNat b g r, ?_, ?_, fun k h0 h1 => ?_,
    fun _ => rfl, rfl⟩
  · rw [State.readByte_obuf_storeSample, if_pos (by omega), Nat.mul_mod_right]
    rfl
  · have hodd : (2 * px + 1) % 2 = 1 := by omega
    rw [State.readByte_obuf_storeSample, if_pos (by omega), hodd]
    rfl
  · rw [State.readByte_obuf_storeSample, if_neg (by omega)]

end Sys2Proof.Machine
end

section
/-! SUPPORT. Scripts that write registers (`spec/30_encoding.md` R93, R94). -/

namespace Sys2Proof.Machine

/-! ## A register access of a script as a step -/

theorem runTxn_wrReg (s : State) (r : Reg) (w : Word) :
    runTxn (stmtTxn (wrReg r w)) s = .next (s.storeRegister w r).writeOkay := by
  rw [wrReg, runTxn_of_decode (decode_wr_reg r w 0xF), exec_decodeRegWrite, exec_regWr_offset]

theorem runTxn_rdReg (s : State) (r : Reg) :
    runTxn (stmtTxn (.rd (.reg r))) s = .next (s.readOkay (s.readRegister r)) := by
  rw [runTxn_of_decode (decode_rd_reg r), exec_regRd_offset]

/-- A write of a register, a command's too, is no reset. -/
theorem State.storeRegister_inReset (s : State) (w : Word) (r : Reg) :
    (s.storeRegister w r).inReset = s.inReset := by
  by_cases h : ∃ c : Command, r = .cmd ∧ w = c.word
  · obtain ⟨c, rfl, rfl⟩ := h
    obtain ⟨-, -, hr, -⟩ := s.runCommandWord_frame c
    exact hr
  · refine (Undisturbed.storeRegister s w r fun hr => ?_).inReset
    by_contra hw
    obtain ⟨c, hc⟩ := Option.ne_none_iff_exists'.mp hw
    exact h ⟨c, hr, Command.word_of_ofWord hc⟩

theorem State.storeRegister_events (s : State) (w : Word) (r : Reg) :
    (s.storeRegister w r).events = s.events := by
  have h : s.storeRegister w r = (s.storeRegister w r).withEvents s.events :=
    s.withEvents_storeRegister s.events w r
  rw [h]
  rfl

/-! ## A run of register writes -/

/-- The state after a register's write, answered OKAY. -/
def State.afterWrite (s : State) (p : Reg × Word) : State := (s.storeRegister p.2 p.1).writeOkay

/-- The event of a register's write. -/
def wrRegEvent (p : Reg × Word) : Event := .bus (stmtTxn (wrReg p.1 p.2))

theorem step_of_wrRegEvent {s : State} {p : Reg × Word} {es : List Event} (hr : s.inReset = false)
    (hev : s.events = wrRegEvent p :: es) : step s = .next ((s.withEvents es).afterWrite p) :=
  (step_of_bus hr hev).trans (runTxn_wrReg _ _ _)

theorem State.withEvents_afterWrite (s : State) (es : List Event) (p : Reg × Word) :
    (s.withEvents es).afterWrite p = (s.afterWrite p).withEvents es :=
  congrArg State.writeOkay (s.withEvents_storeRegister es p.2 p.1)

/-- Writes of registers, in order, each have their effect. -/
theorem runs_wrRegEvents {es : List Event} (ps : List (Reg × Word)) {s : State} (hr : s.inReset = false)
    (hev : s.events = ps.map wrRegEvent ++ es) :
    Runs ps.length s (ps.foldl State.afterWrite (s.withEvents es)) := by
  induction ps generalizing s with
  | nil =>
    obtain rfl : es = s.events := hev.symm
    exact .zero s
  | cons p ps ih =>
    have hstep := step_of_wrRegEvent hr hev
    rw [State.withEvents_afterWrite] at hstep
    have hrest := ih (s := (s.afterWrite p).withEvents (ps.map wrRegEvent ++ es))
      ((s.storeRegister_inReset p.2 p.1).trans hr) rfl
    rw [List.foldl_cons, State.withEvents_afterWrite]
    exact .cons hstep hrest

/-- The register writes of HEADER and META (R94). -/
def headerWrites (fmt width height len seq sec nsec : Word) : List (Reg × Word) :=
  [(.srcFmt, fmt), (.width, width), (.height, height), (.srcLen, len), (.inSeq, seq), (.inStampSec, sec),
    (.inStampNsec, nsec)]

theorem scriptEvents_header_metadata (fmt width height len seq sec nsec : Word) :
    scriptEvents [.header fmt width height len, .metadata seq sec nsec] =
      (headerWrites fmt width height len seq sec nsec).map wrRegEvent :=
  rfl

/-- The seven writes store the seven fields; bits above a narrow field are dropped (`spec/10_state.md` R33 to
R39). -/
theorem State.foldl_headerWrites (s : State) (fmt width height len seq sec nsec : Word) :
    (headerWrites fmt width height len seq sec nsec).foldl State.afterWrite s =
      { s with
        header := {
          fmt := fmt.setWidth 8, width := width.setWidth 16, height := height.setWidth 16, len := len
          seq := seq, sec := sec, nsec := nsec }
        reply := some (.write .okay) } := by
  simp only [headerWrites, List.foldl_cons, List.foldl_nil, State.afterWrite, State.storeRegister, State.writeOkay,
    State.answer, BitVec.setWidth_eq_extractLsb' (show 8 ≤ 32 by decide),
    BitVec.setWidth_eq_extractLsb' (show 16 ≤ 32 by decide)]

/-- Settles O55: the seven writes run in order. -/
theorem headerAndMetaScriptsFillTheHeader : Obligations.HeaderAndMetaScriptsFillTheHeader := by
  intro s es fmt width height len seq sec nsec hr hev
  have hrun := runs_wrRegEvents (headerWrites fmt width height len seq sec nsec) hr hev
  rw [State.foldl_headerWrites] at hrun
  exact hrun

end Sys2Proof.Machine
end

section
/-! SUPPORT. A host that plays a script (`spec/30_encoding.md` R94, R96): a step never stops, so every transaction
of a script is answered; then a POLL, WAITIDLE, and a script without POLL. -/

namespace Sys2Proof.Machine

/-! ## Every event answers a next state (`spec/60_exceptions.md` R158) -/

theorem runTxn_next (t : Txn) (s : State) : ∃ u, runTxn t s = .next u ∧ u.events = s.events := by
  rcases runTxn_cases t s with ⟨c, rfl, -⟩ | ⟨u, hu, hun⟩
  · exact ⟨_, (runTxn_commandTxn c s).trans (exec_command c s), s.storeRegister_events c.word .cmd⟩
  · exact ⟨u, hu, hun.events⟩

theorem runEvent_next (e : Event) (s : State) : ∃ u, runEvent e s = .next u ∧ u.events = s.events := by
  cases e with
  | assertReset | releaseReset => exact ⟨_, rfl, rfl⟩
  | bus t =>
    by_cases hr : s.inReset = true
    · exact ⟨s.answerInReset t, if_pos hr, rfl⟩
    · obtain ⟨u, hu, hev⟩ := runTxn_next t s
      exact ⟨u, (if_neg hr).trans hu, hev⟩
  | complete =>
    rw [runEvent, State.completeIfBusy]
    split_ifs <;> exact ⟨_, rfl, rfl⟩

theorem step_next (s : State) : ∃ t, step s = .next t := by
  obtain ⟨t, ht, -⟩ := runEvent_next s.nextEvent (s.withEvents s.events.tail)
  exact ⟨t, (step_eq_runEvent s).trans ht⟩

theorem core_run_next (k : Nat) (s : State) : ∃ t, Sys2Proof.core.run k s = .next t := by
  induction k generalizing s with
  | zero => exact ⟨s, rfl⟩
  | succ k ih =>
    obtain ⟨u, hu⟩ := step_next s
    obtain ⟨t, ht⟩ := ih u
    exact ⟨t, (core_run_cons Sys2Proof.core hu k).trans ht⟩

/-! ## A POLL -/

/-- A read answers data, also in reset and with a BusError (`spec/20_memory.md` R62). -/
theorem runEvent_read {t : Txn} (hrd : t.isWrite = false) (s : State) :
    ∃ u resp v, runEvent (.bus t) s = .next u ∧ u.reply = some (.read resp v) := by
  by_cases hr : s.inReset = true
  · refine ⟨s.answerInReset t, if Config.okayInReset s.draws then .okay else .slverr, Config.dataInReset s.draws,
      if_pos hr, ?_⟩
    rw [State.answerInReset, hrd]
    rfl
  · have hrun : runEvent (.bus t) s = runTxn t s := if_neg hr
    obtain ⟨hcause, hnone⟩ := s.answersByCause_all t
    rw [hrun]
    by_cases h : s.busErrorCause t
    · exact ⟨_, .slverr, 0, hcause h, by rw [hrd]; rfl⟩
    · obtain ⟨v, hv⟩ := (hnone h).read_eq hrd
      exact ⟨_, .okay, v, hv, rfl⟩

theorem stmtTxn_rd_isWrite (p : Place) : (stmtTxn (.rd p)).isWrite = false :=
  (Txn.fields_of_key (congrArg Txn.key (stmtTxn_rd_eq p))).1

/-- The one action of a POLL. -/
def pollAction (p : Place) (mask value : Word) : Action := { stmt := .rd p, pollFor := some (mask, value) }

theorem scriptActions_poll (p : Place) (mask value : Word) :
    scriptActions [.poll p mask value] = [pollAction p mask value] :=
  rfl

theorem pollAction_goesOn_iff (p : Place) (mask value : Word) (resp : Resp) (v : Word) :
    (pollAction p mask value).goesOn (some (.read resp v)) = true ↔ v &&& mask = value := by
  simp [pollAction, Action.goesOn, pollMet]

/-- One read of a POLL ends it or leaves it as it is, by the data of its answer. -/
theorem playOne_poll (gap : Nat) {q : Playing} {p : Place} {mask value : Word}
    (hq : q.rest = [pollAction p mask value]) :
    ∃ q' resp v, playOne gap q = .next q' ∧ q'.state.reply = some (.read resp v) ∧
      q'.rest = if v &&& mask = value then [] else [pollAction p mask value] := by
  obtain ⟨u, hu⟩ := core_run_next gap q.state
  obtain ⟨t, resp, v, ht, hreply⟩ := runEvent_read (stmtTxn_rd_isWrite p) u
  refine ⟨_, resp, v, playOne_eq hq hu ht, hreply, ?_⟩
  rw [Playing.afterAnswer_rest, hreply]
  simp only [pollAction_goesOn_iff]

/-- Where a POLL stands after some reads: ended by an answer that meets its condition, or about to read again, the
latest answer not meeting it. -/
inductive PollAt (p : Place) (mask value : Word) : List Nat → Playing → Prop where
  | ended {gaps : List Nat} {q : Playing} (hrest : q.rest = []) (hread : gaps ≠ []) (resp : Resp) (v : Word)
      (hreply : q.state.reply = some (.read resp v)) (hmet : v &&& mask = value) : PollAt p mask value gaps q
  | waits {gaps : List Nat} {q : Playing} (hrest : q.rest = [pollAction p mask value])
      (hlast : gaps ≠ [] → ∃ resp v, q.state.reply = some (.read resp v) ∧ v &&& mask ≠ value) :
      PollAt p mask value gaps q

theorem play_poll (s : State) (p : Place) (mask value : Word) (gaps : List Nat) :
    ∃ q, play gaps (startScript [.poll p mask value] s) = .next q ∧ PollAt p mask value gaps q := by
  induction gaps using List.reverseRecOn with
  | nil => exact ⟨_, rfl, .waits (scriptActions_poll p mask value) fun h => absurd rfl h⟩
  | append_singleton gaps gap ih =>
    obtain ⟨q, hq, hat⟩ := ih
    rw [play_append hq]
    cases hat with
    | ended hrest _ resp v hreply hmet =>
      exact ⟨q, play_of_ended [gap] hrest, .ended hrest (by simp) resp v hreply hmet⟩
    | waits hrest _ =>
      obtain ⟨q', resp, v, hplay, hreply, hrest'⟩ := playOne_poll gap hrest
      refine ⟨q', by rw [play, hplay]; rfl, ?_⟩
      by_cases hmet : v &&& mask = value
      · exact .ended (hrest'.trans (if_pos hmet)) (by simp) resp v hreply hmet
      · exact .waits (hrest'.trans (if_neg hmet)) fun _ => ⟨resp, v, hreply, hmet⟩

/-- Settles O57: by where the POLL stands after the reads. -/
theorem pollReadsUntilItsConditionHolds : Obligations.PollReadsUntilItsConditionHolds := by
  intro s p mask value gaps
  obtain ⟨q, hq, hat⟩ := play_poll s p mask value gaps
  refine ⟨q, hq, ?_⟩
  cases hat with
  | ended hrest hread resp v hreply hmet =>
    refine ⟨fun _ => ⟨hread, ⟨resp, v, hreply, hmet⟩, fun gap => ?_⟩, fun h => absurd hrest h⟩
    rw [play_append hq, play_of_ended [gap] hrest]
  | waits hrest hlast =>
    refine ⟨fun h => ?_, fun _ => ⟨hrest.trans (scriptActions_poll p mask value).symm, hlast⟩⟩
    rw [hrest] at h
    cases h

/-! ## WAITIDLE -/

/-- STATUS bit 0 is BUSY (`spec/10_state.md` R32). -/
theorem statusWord_and_one (f : Status) : statusWord f &&& 0x1 = 0x0 ↔ f.busy = false := by
  have hbit : (statusWord f &&& 0x1).toNat = (statusWord f).toNat % 2 := by
    rw [BitVec.toNat_and]
    exact Nat.and_one_is_mod _
  rw [← BitVec.toNat_inj, hbit, statusWord_toNat, show (0x0 : Word).toNat = 0 from rfl, bool_eq_iff_toNat,
    Bool.toNat_false]
  have hlt := f.busy.toNat_lt
  omega

/-- A read of WAITIDLE, out of reset: it goes on exactly where the job has ended. -/
theorem playOne_waitIdle {gap : Nat} {q : Playing} {u : State} (hq : q.rest = scriptActions [waitIdle])
    (hu : Sys2Proof.core.run gap q.state = .next u) (hr : u.inReset = false) :
    playOne gap q = .next
      { state := u.readOkay (u.readRegister .status)
        rest := if u.status.busy = false then [] else scriptActions [waitIdle]
        asExpected := q.asExpected } := by
  have hstep : step { u with events := .bus (stmtTxn (.rd (.reg .status))) :: u.events } =
      .next (u.readOkay (u.readRegister .status)) :=
    (step_of_bus (s := u.withEvents (.bus (stmtTxn (.rd (.reg .status))) :: u.events)) hr rfl).trans
      (runTxn_rdReg u .status)
  have hgo : (pollAction (.reg .status) 0x1 0x0).goesOn (u.readOkay (u.readRegister .status)).reply = true ↔
      u.status.busy = false :=
    (pollAction_goesOn_iff ..).trans (statusWord_and_one u.status)
  rw [playOne_eq hq hu hstep, Playing.afterAnswer]
  simp only [Host.Outcome.next.injEq, Playing.mk.injEq, true_and]
  exact ⟨if_congr hgo rfl rfl, Bool.and_true q.asExpected⟩

/-- While the job runs, WAITIDLE waits after any number of reads, and its reads leave the job alone. -/
theorem play_waitIdle_of_busy {s : State} (hr : s.inReset = false) (hb : s.status.busy = true)
    (hev : s.events = []) (n : Nat) :
    ∃ q, play (List.replicate n 0) (startScript [waitIdle] s) = .next q ∧ q.rest = scriptActions [waitIdle] ∧
      q.asExpected = true ∧ JobGoesOn s q.state ∧ q.state.events = [] := by
  induction n with
  | zero => exact ⟨_, rfl, rfl, rfl, .refl hb, hev⟩
  | succ n ih =>
    obtain ⟨q, hq, hrest, hexp, hjob, hqev⟩ := ih
    have hone := playOne_waitIdle (gap := 0) hrest rfl (hjob.inReset hr)
    have hbusy : ¬q.state.status.busy = false := by simp [hjob.busy]
    rw [if_neg hbusy] at hone
    rw [List.replicate_succ', play_append hq, play, hone]
    exact ⟨_, rfl, rfl, hexp, hjob.answer _, hqev⟩

/-- With no event left, one step completes a running job (R191, log entry 5). -/
theorem runs_complete {s : State} (hr : s.inReset = false) (hb : s.status.busy = true) (hev : s.events = []) :
    Runs 1 s (s.withEvents []).complete := by
  refine .cons ?_ (.zero _)
  rw [step_eq_runEvent, State.nextEvent, hev]
  exact runEvent_complete_of_busy hr hb

/-- Settles O58: the reads while the job runs, then the completion and the read after it. -/
theorem waitIdleEndsWithTheCompletion : Obligations.WaitIdleEndsWithTheCompletion := by
  intro s n hr hb hev
  obtain ⟨q, hq, hrest, hexp, hjob, hqev⟩ := play_waitIdle_of_busy hr hb hev n
  refine ⟨⟨q, hq, hrest, hexp, hjob.busy⟩, ?_⟩
  have hone := playOne_waitIdle hrest (runs_complete (hjob.inReset hr) hjob.busy hqev) (hjob.inReset hr)
  have hidle : (q.state.withEvents []).complete.status.busy = false := rfl
  rw [if_pos hidle] at hone
  rw [play_append hq, play, hone]
  exact ⟨_, rfl, rfl, hexp, rfl, rfl, congrArg (· + 1) hjob.frameCount⟩

/-! ## A script without POLL -/

/-- Actions that never ask again are sent once each, and the machine runs their events. -/
theorem play_withoutPoll (as : List Action) {q : Playing} (hq : q.rest = as)
    (hgo : ∀ a ∈ as, ∀ r, a.goesOn r = true) :
    ∃ q', play (List.replicate as.length 0) q = .next q' ∧ q'.rest = [] ∧
      Runs as.length (q.state.withEvents (as.map Action.event ++ q.state.events)) q'.state := by
  induction as generalizing q with
  | nil => exact ⟨q, rfl, hq, .zero _⟩
  | cons a as ih =>
    obtain ⟨u, hu, hev⟩ := runEvent_next a.event q.state
    have hone : playOne 0 q = .next (q.afterAnswer a as u) := playOne_eq hq rfl hu
    have hrest : (q.afterAnswer a as u).rest = as := by
      rw [Playing.afterAnswer_rest, hgo a List.mem_cons_self, if_pos rfl]
    obtain ⟨q', hplay, hend, hrun⟩ := ih hrest fun b hb => hgo b (List.mem_cons_of_mem a hb)
    have hstep : step (q.state.withEvents ((a :: as).map Action.event ++ q.state.events)) =
        .next (u.withEvents (as.map Action.event ++ q.state.events)) :=
      (step_bus_withEvents q.state _ (stmtTxn a.stmt)).trans (congrArg (outcomeWithEvents _) hu)
    refine ⟨q', ?_, hend, .cons hstep ?_⟩
    · rw [List.length_cons, List.replicate_succ, play, hone]
      exact hplay
    · rw [← hev]
      exact hrun

/-- Settles O59: a script without POLL has only actions that never ask again. -/
theorem scriptWithoutPollSendsEachTransactionOnce : Obligations.ScriptWithoutPollSendsEachTransactionOnce := by
  intro s ls hls
  have hgo : ∀ a ∈ scriptActions ls, ∀ r, a.goesOn r = true := by
    intro a ha r
    obtain ⟨l, hl, hal⟩ := List.mem_flatMap.mp ha
    exact goesOn_of_not_poll (hls l hl) hal r
  have hplay := play_withoutPoll (scriptActions ls) (q := startScript ls s) rfl hgo
  rw [← List.length_map (f := Action.event)] at hplay
  exact hplay

end Sys2Proof.Machine
end

section
/-! SUPPORT. The luma reduction (`spec/40_luma.md`): weighted means of the channels rounded half up, of which LUMA8
and both fixed-point forms are instances, and the laws of a sample under any conforming luma function. -/

namespace Sys2Proof.Machine

/-! ## LUMA8 (R97, R99 to R101) -/

/-- Settles O7: the quotient is below 256. -/
theorem lumaRoundsTheExactLumaHalfUp : Obligations.LumaRoundsTheExactLumaHalfUp := luma8_toNat

/-- The weights sum to 1000 (R99). -/
theorem lumaSum_le (b g r : Byte) : lumaSum b g r ≤ 255000 := by
  have hb := b.isLt
  have hg := g.isLt
  have hr := r.isLt
  unfold lumaSum
  omega

/-- 67109 / 2^26 is close enough to 1/1000 for every rounded sum (R99). -/
theorem mul_shiftRight_eq_div {m : Nat} (hm : m ≤ 255500) : (m * 67109) >>> 26 = m / 1000 := by
  rw [Nat.shiftRight_eq_div_pow]
  omega

/-- Settles O9: the rounded sum stays in the range where the multiplication divides by 1000. -/
theorem lumaIsTheMultiplyShiftCircuit : Obligations.LumaIsTheMultiplyShiftCircuit := by
  intro b g r
  have hle := lumaSum_le b g r
  refine ⟨hle, by omega, ?_⟩
  rw [mul_shiftRight_eq_div (by omega), luma8_toNat]

theorem one_le_luma8_iff (b g r : Byte) : 1 ≤ (luma8 b g r).toNat ↔ 500 ≤ lumaSum b g r := by
  rw [luma8_toNat]
  omega

/-- The distance to the exact luma `n / 1000`, scaled by 1000, and the direction of ties (R100, R101 item 4). -/
theorem div_thousand_half_up (n : Nat) :
    1000 * ((n + 500) / 1000) ≤ n + 500 ∧ n ≤ 1000 * ((n + 500) / 1000) + 500 ∧
    ((1000 * ((n + 500) / 1000) = n + 500 ∨ n = 1000 * ((n + 500) / 1000) + 500) ↔ n % 1000 = 500) ∧
    (n % 1000 = 500 → (n + 500) / 1000 = n / 1000 + 1) := by
  omega

/-! ## Rounded weighted means -/

/-- The mean of the channels under weights that sum to `2 * half`, rounded half up. -/
def roundedMean (wb wg wr half : Nat) (b g r : Byte) : Byte :=
  BitVec.ofNat 8 ((wb * b.toNat + wg * g.toNat + wr * r.toNat + half) / (2 * half))

theorem luma8_eq_roundedMean : luma8 = roundedMean 114 587 299 500 := rfl

theorem lumaQ14_eq_roundedMean : lumaQ14 = roundedMean 1868 9617 4899 8192 := rfl

theorem lumaQ15_eq_roundedMean : lumaQ15 = roundedMean 3735 19235 9798 16384 := rfl

section
variable {wb wg wr half : Nat} (hsum : wb + wg + wr = 2 * half) (hpos : 0 < half)
include hsum hpos

/-- No bit is lost: a mean of channels is at most 255, and so is its rounding. -/
theorem roundedMean_toNat (b g r : Byte) :
    (roundedMean wb wg wr half b g r).toNat =
      (wb * b.toNat + wg * g.toNat + wr * r.toNat + half) / (2 * half) := by
  have hb : wb * b.toNat ≤ wb * 255 := Nat.mul_le_mul_left wb (Nat.le_of_lt_succ b.isLt)
  have hg : wg * g.toNat ≤ wg * 255 := Nat.mul_le_mul_left wg (Nat.le_of_lt_succ g.isLt)
  have hr : wr * r.toNat ≤ wr * 255 := Nat.mul_le_mul_left wr (Nat.le_of_lt_succ r.isLt)
  rw [roundedMean, BitVec.toNat_ofNat]
  apply Nat.mod_eq_of_lt
  apply Nat.div_lt_of_lt_mul
  omega

theorem roundedMean_grey (v : Byte) : roundedMean wb wg wr half v v v = v := by
  apply BitVec.eq_of_toNat_eq
  have hmean : wb * v.toNat + wg * v.toNat + wr * v.toNat + half = half + 2 * half * v.toNat := by
    rw [← hsum]
    ring
  rw [roundedMean_toNat hsum hpos, hmean, Nat.add_mul_div_left _ _ (by omega), Nat.div_eq_of_lt (by omega),
    Nat.zero_add]

theorem roundedMean_mono {b g r b' g' r' : Byte} (hb : b ≤ b') (hg : g ≤ g') (hr : r ≤ r') :
    roundedMean wb wg wr half b g r ≤ roundedMean wb wg wr half b' g' r' := by
  rw [BitVec.le_def] at *
  rw [roundedMean_toNat hsum hpos, roundedMean_toNat hsum hpos]
  gcongr

/-- What is left to check of a rounded mean: the red example, and that the weights are close to those of the exact
luma (R103 items 4 and 5). -/
theorem roundedMean_conforming (hred : roundedMean wb wg wr half 0 0 255 = 76)
    (hacc : ∀ b g r, b < 256 → g < 256 → r < 256 →
      1000 * ((wb * b + wg * g + wr * r + half) / (2 * half)) < 114 * b + 587 * g + 299 * r + 1000 ∧
        114 * b + 587 * g + 299 * r < 1000 * ((wb * b + wg * g + wr * r + half) / (2 * half)) + 1000) :
    ConformingLuma (roundedMean wb wg wr half) where
  grey := roundedMean_grey hsum hpos
  monotone _ _ _ _ _ _ := roundedMean_mono hsum hpos
  redExample := hred
  whiteExample := roundedMean_grey hsum hpos 255
  accurate b g r := by
    rw [roundedMean_toNat hsum hpos]
    exact hacc _ _ _ b.isLt g.isLt r.isLt

end

theorem luma8_conforming : ConformingLuma luma8 := by
  rw [luma8_eq_roundedMean]
  exact roundedMean_conforming rfl (by decide) rfl fun _ _ _ _ _ _ => by omega

theorem lumaQ14_conforming : ConformingLuma lumaQ14 := by
  rw [lumaQ14_eq_roundedMean]
  exact roundedMean_conforming rfl (by decide) rfl fun _ _ _ _ _ _ => by omega

theorem lumaQ15_conforming : ConformingLuma lumaQ15 := by
  rw [lumaQ15_eq_roundedMean]
  exact roundedMean_conforming rfl (by decide) rfl fun _ _ _ _ _ _ => by omega

/-- Settles O13: all three are rounded means, and they part at (0, 2, 175). -/
theorem lumaAndTheFixedPointFormsConform : Obligations.LumaAndTheFixedPointFormsConform :=
  ⟨luma8_conforming, lumaQ14_conforming, lumaQ15_conforming, by decide, by decide⟩

/-- Settles O8: greys and monotony are those of a conforming luma, the rest is the sum's rounding. -/
theorem lumaLaws : Obligations.LumaLaws := by
  refine ⟨fun b g r => Nat.le_of_lt_succ (luma8 b g r).isLt, luma8_conforming.grey, luma8_conforming.monotone,
    fun b g r => ?_, fun b => ?_, fun g => ?_, fun r => ?_⟩
  · simp only [luma8_toNat]
    exact div_thousand_half_up (lumaSum b g r)
  all_goals
    rw [one_le_luma8_iff, lumaSum, show (0 : Byte).toNat = 0 from rfl]
    omega

/-! ## Samples under a conforming luma (R111) -/

theorem sampleWith_toNat (luma : Byte → Byte → Byte → Byte) (b g r : Byte) :
    (sampleWith luma b g r).toNat = 16 * (luma b g r).toNat :=
  rescale12_toNat (luma b g r)

theorem sampleWith_toNat_le (luma : Byte → Byte → Byte → Byte) (b g r : Byte) :
    (sampleWith luma b g r).toNat ≤ 4080 := by
  have hlt := (luma b g r).isLt
  rw [sampleWith_toNat]
  omega

theorem sampleWith_le_sampleWith {luma : Byte → Byte → Byte → Byte} {b g r b' g' r' : Byte}
    (h : luma b g r ≤ luma b' g' r') : sampleWith luma b g r ≤ sampleWith luma b' g' r' := by
  rw [BitVec.le_def] at *
  rw [sampleWith_toNat, sampleWith_toNat]
  omega

/-- The multiples of 16 up to 4080 are the samples of the greys, and no pixel has another sample. -/
theorem exists_sampleWith_iff {luma : Byte → Byte → Byte → Byte} (hgrey : ∀ v, luma v v v = v) (y : Sample) :
    (∃ b g r, sampleWith luma b g r = y) ↔ ∃ k : Nat, k < 256 ∧ y.toNat = 16 * k := by
  constructor
  · rintro ⟨b, g, r, rfl⟩
    exact ⟨_, (luma b g r).isLt, sampleWith_toNat luma b g r⟩
  · rintro ⟨k, hk, hy⟩
    refine ⟨BitVec.ofNat 8 k, BitVec.ofNat 8 k, BitVec.ofNat 8 k, BitVec.eq_of_toNat_eq ?_⟩
    rw [sampleWith_toNat, hgrey, BitVec.toNat_ofNat, Nat.mod_eq_of_lt hk, hy]

/-- Settles O14: a sample is 16 times its luma, so the luma's laws are the sample's. -/
theorem everyConformingLumaKeepsTheSampleLaws : Obligations.EveryConformingLumaKeepsTheSampleLaws := by
  intro luma hluma
  refine ⟨fun b g r => ?_, sampleWith_toNat_le luma, fun v => ?_,
    fun _ _ _ _ _ _ hb hg hr => sampleWith_le_sampleWith (hluma.monotone _ _ _ _ _ _ hb hg hr),
    fun b g r => rescale12_fields (luma b g r), exists_sampleWith_iff hluma.grey⟩
  · have hle := sampleWith_toNat_le luma b g r
    rw [← sampleWith_toNat]
    omega
  · rw [sampleWith_toNat, hluma.grey]

end Sys2Proof.Machine
end

section
/-! SUPPORT. RESCALE12 and the laws of a sample (`spec/41_rescale.md` R107, R108, R110), and CVT of a job's pixels
in any order (R112): what each leaves at a byte of OBUF depends on no other pixel. -/

namespace Sys2Proof.Machine

/-! ## RESCALE12 and the laws of a sample -/

/-- The clamp is the minimum with the upper bound (`spec/41_rescale.md` R105, R107). -/
theorem clamp12_toNat (v : Sample) : (clamp12 v).toNat = min v.toNat 4095 := by
  have hbound : (4095 : Sample).toNat = 4095 := rfl
  rw [clamp12]
  split_ifs with hv <;> rw [BitVec.le_def, hbound] at hv
  · exact (Nat.min_eq_left hv).symm
  · rw [hbound, Nat.min_eq_right (Nat.le_of_not_le hv)]

/-- Settles O10: a luma is at most 255, so its scaled value is below the clamp's bound. -/
theorem rescaleIsTimesSixteenAndTheClampNeverActs : Obligations.RescaleIsTimesSixteenAndTheClampNeverActs :=
  ⟨fun y => ⟨rescale12_toNat y, Nat.mul_le_mul_left 16 (Nat.le_of_lt_succ y.isLt)⟩, clamp12_toNat⟩

/-- The scale loses no bit, so it keeps a strict order (`spec/41_rescale.md` R106, R110 item 3). -/
theorem rescale12_lt_rescale12_iff {y y' : Byte} : rescale12 y < rescale12 y' ↔ y < y' := by
  rw [BitVec.lt_def, BitVec.lt_def, rescale12_toNat, rescale12_toNat]
  omega

/-- Settles O12: LUMA8 conforms, so its samples keep the laws of every conforming luma, and the scale keeps its
strict order. -/
theorem sampleLaws : Obligations.SampleLaws := by
  obtain ⟨-, hrange, hgrey, hmono, -, hvalues⟩ := everyConformingLumaKeepsTheSampleLaws luma8 luma8_conforming
  exact ⟨hrange, hgrey, hmono, fun _ _ _ _ _ _ => rescale12_lt_rescale12_iff.mpr, hvalues⟩

/-! ## CVT of pixels in any order (R112) -/

/-- The bytes of OBUF after a completion, in closed form (`spec/42_frame.md` R126). -/
theorem State.complete_readByte_obuf_eq (s : State) (k : Nat) :
    s.complete.readByte .obuf k = if k / 2 < s.job.pixels then s.jobByte k else s.readByte .obuf k := by
  rw [State.readByte_obuf, State.complete_obuf, State.convertedObuf_get]
  by_cases hk : k / 2 < s.job.pixels
  · rw [if_pos hk, if_pos (by omega)]
    rfl
  · rw [if_neg hk, if_neg (by omega)]
    rfl

/-- CVT of the pixels of a list gives each byte of a listed pixel the value the completion gives it: it depends on
IBUF only, which CVT leaves as it is, so neither the order nor a repetition matters. -/
theorem runCvts_of_pixels {order : List Nat} {s : State} (hb : s.status.busy = true)
    (hfit : s.job.pixels ≤ s.pMax) (horder : ∀ i ∈ order, i < s.job.pixels) :
    ∃ t : State, runCvts order s = .next t ∧
      (∀ k, t.readByte .obuf k = if k / 2 ∈ order then s.jobByte k else s.readByte .obuf k) ∧
      t = { s with obuf := t.obuf } := by
  induction order generalizing s with
  | nil => exact ⟨s, rfl, fun k => by simp, rfl⟩
  | cons i rest ih =>
    obtain ⟨hi, hrest⟩ := List.forall_mem_cons.mp horder
    have hfirst := runCvts_singleton hb hi (Nat.lt_of_lt_of_le hi hfit)
    obtain ⟨t, hrun, hbytes, hframe⟩ := ih (s := s.storeSample i (s.pixelSample i)) hb hfit hrest
    refine ⟨t, (runCvts_append hfirst rest).trans hrun, fun k => ?_, hframe⟩
    have hjob : (s.storeSample i (s.pixelSample i)).jobByte k = s.jobByte k := State.jobByte_congr (fun _ => rfl) k
    rw [hbytes, hjob, State.readByte_obuf_storeSample]
    by_cases hlater : k / 2 ∈ rest
    · rw [if_pos hlater, if_pos (List.mem_cons_of_mem i hlater)]
    · rw [if_neg hlater]
      simp only [List.mem_cons, hlater, or_false]
      split_ifs with hki
      · rw [← hki]
        rfl
      · rfl

/-- Settles O18: a permutation lists exactly the pixels the completion converts. -/
theorem pixelOrderIsNotObservable : Obligations.PixelOrderIsNotObservable := by
  intro s order hb hfit hperm
  have hmem : ∀ i, i ∈ order ↔ i < s.job.pixels := fun i => hperm.mem_iff.trans List.mem_range
  obtain ⟨t, hrun, hbytes, hframe⟩ := runCvts_of_pixels hb hfit fun i hi => (hmem i).mp hi
  refine ⟨t, hrun, fun k => ?_, hframe⟩
  rw [hbytes, State.complete_readByte_obuf_eq, if_congr (hmem (k / 2)) rfl rfl]

end Sys2Proof.Machine
end

section
/-! SUPPORT. The commands NOP, START, CLEAR and ABORT, the illegal word and a job's frame (`spec/42_frame.md`): what
each command leaves, and which inputs of a job its frame depends on. -/

namespace Sys2Proof.Machine

/-! ## START (R116 to R121) -/

theorem exec_start (s : State) : exec .start s = .next s.runStart.writeOkay := rfl

/-- START that passes its checks (R120). -/
theorem exec_start_of_goodHeader {s : State} (hb : s.status.busy = false) (hh : s.headerError = none) :
    exec .start s = .next s.clearResult.beginJob.writeOkay := by
  rw [exec_start, State.runStart_of_goodHeader hb hh]

/-- START that fails a check: the error report and the cleared result, no more (R117, R119). -/
theorem exec_start_of_badHeader {s : State} {e : ErrorCode} (hb : s.status.busy = false)
    (hh : s.headerError = some e) :
    exec .start s = .next { s with
      status := { busy := false, done := false, err := true, cmdErr := s.status.cmdErr, errCode := errorValue e }
      errCount := s.errCount + 1
      reply := some (.write .okay) } := by
  have hstatus : s.status.clearResult.setErr e =
      { busy := false, done := false, err := true, cmdErr := s.status.cmdErr, errCode := errorValue e } := by
    simp [Status.setErr, Status.clearResult, hb]
  rw [exec_start, State.runStart_of_badHeader hb hh, ← hstatus]
  rfl

/-- A START that leaves the block BUSY had passed its checks (R118, R119). -/
theorem State.headerError_none_of_runStart_busy {s : State} (hb : s.status.busy = false)
    (h : s.runStart.status.busy = true) : s.headerError = none := by
  rcases s.runStart_cases with ⟨hb', -⟩ | ⟨e, -, -, he⟩ | ⟨-, hh, -⟩
  · simp [hb] at hb'
  · simp [he, hb] at h
  · exact hh

/-! ## The check that fails first (R118) -/

theorem State.headerError_of_badFormat {s : State} (hf : s.header.fmt ≠ 0x01) :
    s.headerError = some .format := if_pos hf

theorem State.headerError_of_badLength {s : State} (hf : s.header.fmt = 0x01)
    (hl : s.header.len.toNat ≠ 3 * (s.header.width.toNat * s.header.height.toNat)) :
    s.headerError = some .length := by
  simp [State.headerError, hf, hl]

theorem State.headerError_of_overCapacity {s : State} (hf : s.header.fmt = 0x01)
    (hl : s.header.len.toNat = 3 * (s.header.width.toNat * s.header.height.toNat))
    (hc : s.pMax < s.header.width.toNat * s.header.height.toNat) :
    s.headerError = some .capacity := by
  simp [State.headerError, hf, hl, hc]

/-- A header without pixels and with SRC_LEN 0 passes every check (R128). -/
theorem State.headerError_of_zeroArea {s : State} (hf : s.header.fmt = 0x01) (hl : s.header.len = 0)
    (ha : s.header.width.toNat * s.header.height.toNat = 0) : s.headerError = none := by
  refine s.headerError_none_iff.mpr ⟨hf, ?_, ?_⟩
  · rw [hl, ha]
    rfl
  · rw [ha]
    exact Nat.zero_le _

/-! ## The bytes of a sample in OBUF (`spec/30_encoding.md` R85) -/

theorem State.jobByte_even (s : State) (i : Nat) : s.jobByte (2 * i) = (s.pixelSample i).extractLsb' 0 8 := by
  have hhalf : 2 * i / 2 = i := by omega
  have hpar : 2 * i % 2 = 0 := by omega
  rw [State.jobByte, hhalf, hpar]
  rfl

theorem State.jobByte_odd (s : State) (i : Nat) : s.jobByte (2 * i + 1) = (s.pixelSample i).extractLsb' 8 8 := by
  have hhalf : (2 * i + 1) / 2 = i := by omega
  have hpar : (2 * i + 1) % 2 = 1 := by omega
  rw [State.jobByte, hhalf, hpar]
  rfl

/-- A byte of the frame depends on its own pixel's three bytes of IBUF only (R126, R132). -/
theorem State.jobByte_congr_of_pixel {s s' : State} {k : Nat}
    (h : ∀ j, j < 3 → s.readByte .ibuf (3 * (k / 2) + j) = s'.readByte .ibuf (3 * (k / 2) + j)) :
    s.jobByte k = s'.jobByte k := by
  have hsample : s.pixelSample (k / 2) = s'.pixelSample (k / 2) := by
    have hb := h 0 (by decide)
    have hg := h 1 (by decide)
    have hr := h 2 (by decide)
    rw [Nat.add_zero] at hb
    rw [State.pixelSample, State.pixelSample, hb, hg, hr]
  rw [State.jobByte, State.jobByte, hsample]

/-! ## ABORT (R123) -/

theorem exec_abort (s : State) : exec .abort s = .next s.runAbort.writeOkay := rfl

/-- OBUF after the ABORT of a running job: below 2N the old or the new byte by the free choice (U9), the old one
from there up. -/
theorem State.runAbort_readByte_obuf {s : State} (hb : s.status.busy = true) (k : Nat) :
    s.runAbort.readByte .obuf k =
      if k < 2 * s.job.pixels ∧ Config.abortTakesNew s.draws k = true then s.jobByte k
      else s.readByte .obuf k := by
  rw [State.runAbort_of_busy hb, State.readByte_obuf, State.abortedObuf_get]
  by_cases hk : k < 2 * s.job.pixels
  · simp [hk]
  · rw [if_neg hk, if_neg fun h => hk h.1]
    rfl

theorem State.runAbort_readByte_obuf_old_or_new {s : State} (hb : s.status.busy = true) (k : Nat) :
    s.runAbort.readByte .obuf k = s.readByte .obuf k ∨ s.runAbort.readByte .obuf k = s.jobByte k := by
  rw [State.runAbort_readByte_obuf hb]
  split_ifs
  · exact .inr rfl
  · exact .inl rfl

/-! ## The engine's turn (R127) -/

/-- The step of a running job's completion, by its event or at the end of the events (R191, log entry 5). -/
theorem step_of_engineTurn {s : State} {es : List Event} (hr : s.inReset = false) (hb : s.status.busy = true)
    (hev : s.events = .complete :: es ∨ (s.events = [] ∧ es = [])) :
    step s = .next (s.withEvents es).complete := by
  obtain ⟨he, ht⟩ := State.nextEvent_and_tail hev
  rw [step_eq_runEvent, he, ht]
  exact runEvent_complete_of_busy hr hb

/-! ## The statements -/

/-- Settles O19: both jobs complete; the descriptor is the snapshot's, and a byte of the frame is its pixel's. -/
theorem equalJobsLeaveEqualFrames : Obligations.EqualJobsLeaveEqualFrames := by
  intro s s' hr hr' hb hb' hev hev' hjob hibuf
  refine ⟨_, _, step_of_engineTurn hr hb (.inr ⟨hev, rfl⟩), step_of_engineTurn hr' hb' (.inr ⟨hev', rfl⟩),
    congrArg Job.descriptor hjob, fun k hk => ?_⟩
  have hpix : k / 2 < (s.withEvents []).job.pixels := Nat.div_lt_of_lt_mul hk
  have hpix' : k / 2 < (s'.withEvents []).job.pixels := hjob ▸ hpix
  rw [State.complete_readByte_obuf_eq, State.complete_readByte_obuf_eq, if_pos hpix, if_pos hpix']
  exact State.jobByte_congr_of_pixel fun j hj => hibuf _ (by omega)

/-- Settles O26: byte by byte, by the free choice of each. -/
theorem abortAbandonsTheJob : Obligations.AbortAbandonsTheJob := by
  intro s
  refine ⟨fun hb => ?_, fun hb => ⟨_, exec_abort s, fun i _ => ?_, fun k hk => ?_, fun k => ?_, ?_⟩⟩
  · rw [exec_abort, State.runAbort_of_idle hb]
    rfl
  · have heven := State.runAbort_readByte_obuf_old_or_new hb (2 * i)
    have hodd := State.runAbort_readByte_obuf_old_or_new hb (2 * i + 1)
    rw [State.jobByte_even] at heven
    rw [State.jobByte_odd] at hodd
    exact ⟨heven, hodd⟩
  · rw [State.writeOkay_eq, State.readByte_answer, State.runAbort_readByte_obuf hb]
    exact if_neg fun h => Nat.not_lt.mpr hk h.1
  · rw [State.runAbort_of_busy hb]
    rfl
  · rw [State.runAbort_of_busy hb]
    rfl

/-- Settles O29: success means that the checks pass, and they read neither the flags nor the error count. -/
theorem earlierResultsDoNotAffectAStart : Obligations.EarlierResultsDoNotAffectAStart := by
  intro s t done err code count hb hstart hbusy
  obtain rfl : s.runStart.writeOkay = t := Host.Outcome.next.inj hstart
  have hh : s.headerError = none := State.headerError_none_of_runStart_busy hb hbusy
  rw [State.runStart_of_goodHeader hb hh]
  exact exec_start_of_goodHeader hb hh

/-- Settles O51: the header passes every check; the job's completion, the next event, converts no pixel. -/
theorem aZeroAreaFrameCompletes : Obligations.AZeroAreaFrameCompletes := by
  intro s es hr hb hev hf hl hwh
  have harea : s.header.width.toNat * s.header.height.toNat = 0 := by
    rcases hwh with h | h <;> simp [h]
  have hpixels : s.headerJob.pixels = 0 := harea
  have hstart := step_of_goodStart hr hb hev (State.headerError_of_zeroArea hf hl harea)
  refine ⟨_, _, .cons hstart (.zero _), rfl,
    .cons hstart (.cons (step_of_engineTurn hr rfl (.inl rfl)) (.zero _)), rfl, rfl,
    s.headerJob.descriptor_step_toNat, ?_, rfl, rfl, fun k => ?_⟩
  · exact congrArg (fun n => BitVec.ofNat 32 (2 * n)) hpixels
  · have habove : 2 * s.headerJob.pixels ≤ k := by omega
    exact State.complete_readByte_obuf_above habove

/-- Settles O21: a command is its word's effect, answered OKAY, and NOP's word has none. -/
theorem nopChangesNothing : Obligations.NopChangesNothing := exec_command .nop

/-- Settles O22: the header's three conditions are the checks. -/
theorem startWithAGoodHeaderBeginsTheJob : Obligations.StartWithAGoodHeaderBeginsTheJob :=
  fun s hb hf hl hc => exec_start_of_goodHeader hb (s.headerError_none_iff.mpr ⟨hf, hl, hc⟩)

/-- Settles O23: check by check. -/
theorem startReportsTheFirstFailedCheck : Obligations.StartReportsTheFirstFailedCheck := fun _ hb =>
  ⟨fun hf => exec_start_of_badHeader hb (State.headerError_of_badFormat hf),
    fun hf hl => exec_start_of_badHeader hb (State.headerError_of_badLength hf hl),
    fun hf hl hc => exec_start_of_badHeader hb (State.headerError_of_overCapacity hf hl hc)⟩

/-- Settles O24: a START while BUSY is a command error. -/
theorem startWhileBusyIsACommandError : Obligations.StartWhileBusyIsACommandError := by
  intro s hb
  rw [exec_start, State.runStart_of_busy hb]
  rfl

/-- Settles O25: irq is low where DONE and ERR are. -/
theorem clearDropsTheResultFlags : Obligations.ClearDropsTheResultFlags := by
  intro s
  refine ⟨s.runClear.writeOkay, exec_command .clear s, rfl, ?_⟩
  simp [State.irq, State.writeOkay_eq]

/-- Settles O27: a write of CMD runs its word, and no word from 4 up is a command's. -/
theorem illegalCommandWordIsACommandError : Obligations.IllegalCommandWordIsACommandError := by
  intro s w hw
  have hword : Command.ofWord w = none := (Command.ofWord_none_iff w).mpr hw
  have hstore : s.storeRegister w .cmd = s.raiseCmdError := by
    rw [State.storeRegister, State.runCommandWord, hword]
  have hexec := exec_regWr_offset s .cmd w
  rw [hstore] at hexec
  exact hexec

end Sys2Proof.Machine
end

section
/-! SUPPORT. No event stops the block (`spec/60_exceptions.md` R150, R158). -/

namespace Sys2Proof.Machine

/-- Settles O43: a step runs one event (`step_eq_runEvent`), and each event answers a next state
(`runEvent_next`): no transaction selects a CVT, the one operation that can fault. -/
theorem everyStepAnswersANextState : Obligations.EveryStepAnswersANextState := step_next

end Sys2Proof.Machine
end

section
/-! SUPPORT. The port while reset is asserted, and its release (`spec/70_reset_and_hazards.md` R177, R178). -/

namespace Sys2Proof.Machine

/-- The step of an event that stands at the head of the events, in reset or not. -/
theorem step_of_event {s : State} {e : Event} {es : List Event} (hev : s.events = e :: es) :
    step s = runEvent e (s.withEvents es) := by
  rw [step_eq_runEvent, State.nextEvent, hev]
  rfl

/-- The port's answer to a transaction while `rst_n = 0`: both parts are free (U11, log entry 3). -/
def State.replyInReset (s : State) (t : Txn) : Reply :=
  let resp := if Config.okayInReset s.draws then Resp.okay else Resp.slverr
  if t.isWrite then .write resp else .read resp (Config.dataInReset s.draws)

/-- The answer and the count of free choices are all that `State.answerInReset` changes. -/
theorem State.answerInReset_eq (s : State) (t : Txn) :
    s.answerInReset t = { s with draws := s.draws + 1, reply := some (s.replyInReset t) } := rfl

theorem runEvent_bus_of_inReset {s : State} (hr : s.inReset = true) (t : Txn) :
    runEvent (.bus t) s = .next (s.answerInReset t) := if_pos hr

/-- Settles O54: in reset the port's answer replaces the transaction's operation, and the release is an event of
its own. -/
theorem transactionsDuringResetHaveNoEffect : Obligations.TransactionsDuringResetHaveNoEffect := by
  intro s es hr
  refine ⟨fun t hev => ⟨s.replyInReset t, ?_⟩, fun hev => step_of_event hev⟩
  have hr' : (s.withEvents es).inReset = true := hr
  rw [step_of_event hev, runEvent_bus_of_inReset hr', State.answerInReset_eq]
  rfl

end Sys2Proof.Machine
end
